-- ==== Sys2Proof/Word.lean ====
section
/-! DEFINITION. The word types: a command word is 64 bits (R300), host memory and TMEM are bytes (R203). -/

namespace Sys2Proof

/-- A command word `w0, w1, ...` of the command source (R300). -/
abbrev Word64 := BitVec 64

/-- A byte of host memory or of TMEM (R203, R119). -/
abbrev Byte := BitVec 8

end Sys2Proof
end

