-- ==== Sys2Proof/Syntax.lean ====
section
/-! DEFINITION. The command set as syntax: one constructor of `Instr` per row of spec/opcode_table.json, its arguments
the fields of 30_encoding.md section 3, each at the width the rule gives it. -/

namespace Sys2Proof

/-- Three channels (R109). -/
structure Rgb (α : Type) where
  r : α
  g : α
  b : α
deriving DecidableEq, Repr

/-- Four channels (R107, R821). -/
structure Rgba (α : Type) where
  r : α
  g : α
  b : α
  a : α
deriving DecidableEq, Repr

/-- A colour register: 8 bits per channel (R107). -/
abbrev Rgba8 := Rgba (BitVec 8)

/-- `om.cycle_type` (R105): which span renderer runs (R700). -/
inductive CycleType where
  | oneCycle | twoCycle | copy | fill
deriving DecidableEq, Repr

/-- Pixel and texel size codes (R116): 4, 8, 16, 32 bits. -/
inductive PixSize where
  | b4 | b8 | b16 | b32
deriving DecidableEq, Repr

/-- `om.z_mode` (R105). -/
inductive ZMode where
  | opaqueZ | interpenetrating | transparent | decal
deriving DecidableEq, Repr

/-- `om.cvg_dest` (R105, R714). -/
inductive CvgDest where
  | clamp | wrap | zap | save
deriving DecidableEq, Repr

/-- `om.rgb_dither_sel` (R105, R1042). -/
inductive RgbDitherSel where
  | magic | bayer | noise | none
deriving DecidableEq, Repr

/-- `om.alpha_dither_sel` (R105, R1042). -/
inductive AlphaDitherSel where
  | pattern | inverted | noise | none
deriving DecidableEq, Repr

/-- The four blender selectors of one cycle (R105, R923). -/
structure BlendSel where
  m1a : BitVec 2
  m1b : BitVec 2
  m2a : BitVec 2
  m2b : BitVec 2
deriving DecidableEq, Repr

/-- The other-modes register `S.om` (R105), the operand of SET_OTHER_MODES (R311). -/
structure OtherModes where
  atomicPrim : Bool
  cycleType : CycleType
  perspTexEn : Bool
  detailTexEn : Bool
  sharpenTexEn : Bool
  texLodEn : Bool
  enTlut : Bool
  tlutType : Bool
  sampleType : Bool
  midTexel : Bool
  biLerp0 : Bool
  biLerp1 : Bool
  convertOne : Bool
  keyEn : Bool
  rgbDitherSel : RgbDitherSel
  alphaDitherSel : AlphaDitherSel
  blend0 : BlendSel
  blend1 : BlendSel
  forceBlend : Bool
  alphaCvgSelect : Bool
  cvgTimesAlpha : Bool
  zMode : ZMode
  cvgDest : CvgDest
  colorOnCvg : Bool
  imageReadEn : Bool
  zUpdateEn : Bool
  zCompareEn : Bool
  antialiasEn : Bool
  zSourceSel : Bool
  ditherAlphaEn : Bool
  alphaCompareEn : Bool
deriving DecidableEq, Repr

/-- The eight combiner selectors of one cycle (R106). -/
structure CombineCycle where
  subArgb : BitVec 4
  subBrgb : BitVec 4
  mulRgb : BitVec 5
  addRgb : BitVec 3
  subAa : BitVec 3
  subBa : BitVec 3
  mulA : BitVec 3
  addA : BitVec 3
deriving DecidableEq, Repr

/-- The combine-mode register `S.cc` (R106): cycle 0 and cycle 1. -/
structure CombineMode where
  c0 : CombineCycle
  c1 : CombineCycle
deriving DecidableEq, Repr

/-- The scissor rectangle, u10.2 (R112); also the corners of a rectangle command (R317): `xh, yh` upper left,
`xl, yl` lower right. -/
structure Rect where
  xh : BitVec 12
  yh : BitVec 12
  xl : BitVec 12
  yl : BitVec 12
deriving DecidableEq, Repr

/-- The tile fields SET_TILE writes (R117, R314). -/
structure TileMode where
  format : BitVec 3
  size : PixSize
  line : BitVec 9
  tmem : BitVec 9
  palette : BitVec 4
  ct : Bool
  mt : Bool
  maskT : BitVec 4
  shiftT : BitVec 4
  cs : Bool
  ms : Bool
  maskS : BitVec 4
  shiftS : BitVec 4
deriving DecidableEq, Repr

/-- The tile fields SET_TILE_SIZE and the loads write (R117, R315), u10.2; after LOAD_BLOCK `th` holds dxt. -/
structure TileBounds where
  sl : BitVec 12
  tl : BitVec 12
  sh : BitVec 12
  th : BitVec 12
deriving DecidableEq, Repr

/-- An image descriptor: format, pixel size, pixels per row (1..1024, R313's `width_m1` + 1) and byte address. -/
structure ImageDesc where
  format : BitVec 3
  size : PixSize
  width : BitVec 11
  address : BitVec 26
deriving DecidableEq, Repr

/-- The triangle edge words w0..w3 (R318): `y` values s11.2 in 14 bits, `x` values s15.16 in 28 bits, slopes s13.16 in
30 bits, all read signed. -/
structure EdgeCoeffs where
  flip : Bool
  maxLevel : BitVec 3
  tile : BitVec 3
  yl : BitVec 14
  ym : BitVec 14
  yh : BitVec 14
  xl : BitVec 28
  dxldy : BitVec 30
  xh : BitVec 28
  dxhdy : BitVec 30
  xm : BitVec 28
  dxmdy : BitVec 30
deriving DecidableEq, Repr

/-- One attribute of a primitive: its value and its gradients per x, along the major edge and per y, 32 bits read
signed (R319, R608). -/
structure Coeff where
  v : BitVec 32
  dx : BitVec 32
  de : BitVec 32
  dy : BitVec 32
deriving DecidableEq, Repr

/-- The shade words (R319). -/
structure ShadeCoeffs where
  r : Coeff
  g : Coeff
  b : Coeff
  a : Coeff
deriving DecidableEq, Repr

/-- The texture words (R320). -/
structure TexCoeffs where
  s : Coeff
  t : Coeff
  w : Coeff
deriving DecidableEq, Repr

/-- The second word of TEX_RECT and TEX_RECT_FLIP (R317): `s, t` s10.5 and `dsdx, dtdy` s5.10, read signed. -/
structure RectTex where
  s : BitVec 16
  t : BitVec 16
  dsdx : BitVec 16
  dtdy : BitVec 16
deriving DecidableEq, Repr

/-- The commands, one constructor per row of spec/opcode_table.json, in the table's order (R304, R306). -/
inductive Instr where
  | nop
  | unassigned01
  | unassigned02
  | unassigned03
  | unassigned04
  | unassigned05
  | unassigned06
  | unassigned07
  | triFill (e : EdgeCoeffs)
  | triFillZ (e : EdgeCoeffs) (z : Coeff)
  | triTex (e : EdgeCoeffs) (t : TexCoeffs)
  | triTexZ (e : EdgeCoeffs) (t : TexCoeffs) (z : Coeff)
  | triShade (e : EdgeCoeffs) (c : ShadeCoeffs)
  | triShadeZ (e : EdgeCoeffs) (c : ShadeCoeffs) (z : Coeff)
  | triShadeTex (e : EdgeCoeffs) (c : ShadeCoeffs) (t : TexCoeffs)
  | triShadeTexZ (e : EdgeCoeffs) (c : ShadeCoeffs) (t : TexCoeffs) (z : Coeff)
  | unassigned10
  | unassigned11
  | unassigned12
  | unassigned13
  | unassigned14
  | unassigned15
  | unassigned16
  | unassigned17
  | unassigned18
  | unassigned19
  | unassigned1A
  | unassigned1B
  | unassigned1C
  | unassigned1D
  | unassigned1E
  | unassigned1F
  | unassigned20
  | unassigned21
  | unassigned22
  | unassigned23
  | texRect (r : Rect) (tile : BitVec 3) (x : RectTex)
  | texRectFlip (r : Rect) (tile : BitVec 3) (x : RectTex)
  | syncLoad
  | syncPipe
  | syncTile
  | syncFull
  | setKeyGb (widthG widthB : BitVec 12) (centerG scaleG centerB scaleB : BitVec 8)
  | setKeyR (widthR : BitVec 12) (centerR scaleR : BitVec 8)
  | setConvert (k0 k1 k2 k3 k4 k5 : BitVec 9)
  | setScissor (clip : Rect) (field keepOdd : Bool)
  | setPrimDepth (z : BitVec 15) (dz : BitVec 16)
  | setOtherModes (om : OtherModes)
  | loadTlut (tile : BitVec 3) (b : TileBounds)
  | unassigned31
  | setTileSize (tile : BitVec 3) (b : TileBounds)
  | loadBlock (tile : BitVec 3) (sl tl sh dxt : BitVec 12)
  | loadTile (tile : BitVec 3) (b : TileBounds)
  | setTile (tile : BitVec 3) (m : TileMode)
  | fillRect (r : Rect)
  | setFillColor (c : BitVec 32)
  | setFogColor (c : Rgba8)
  | setBlendColor (c : Rgba8)
  | setPrimColor (lodMin : BitVec 5) (lodFrac : BitVec 8) (c : Rgba8)
  | setEnvColor (c : Rgba8)
  | setCombine (cc : CombineMode)
  | setTextureImage (img : ImageDesc)
  | setMaskImage (address : BitVec 26)
  | setColorImage (img : ImageDesc)
deriving DecidableEq, Repr

end Sys2Proof
end

