-- ==== Sys2Proof/Config.lean ====
section
/-! DEFINITION. The parameters the spec takes as arguments (R11, 92_eei_decisions.md) as plain data, their defaults, and
the FREE VALUES: constants without a body, of which no proof can see a value (R1202).

A parameter whose values are functions (PERSP_DIVIDE, KEY_ALPHA, BLDIV_TABLE, CVARRAY, FILL_KILL_MODE, EW_OFFSET,
COPY_FETCH, LOD_NEXT_POINT, ACALPHA_2CYCLE, MID_TEXEL_FN) is held as a `Setting`: the default its rule gives, or `free`,
an uninterpreted function of this file (log entry 16, DESIGN CHOICE, safe). The parameters stand in the state (log entry
1), so that a statement about every state holds for every setting of them. -/

namespace Sys2Proof.Config

/-- OOB_MODE (R209, D5): what an access at or beyond RDRAM_SIZE does. -/
inductive OobMode where
  | fault | ignore
deriving DecidableEq, Repr

/-- UNKNOWN_TEXEL (R823, D10): the value of a texel whose format and size have no decode. -/
inductive UnknownTexel where
  | draw | recalled | fault
deriving DecidableEq, Repr

/-- NOISE (R1044, D12): the noise source. -/
inductive Noise where
  | draw | lcg
deriving DecidableEq, Repr

/-- FB4_MODE (R716, D18): what a 1- or 2-cycle pixel does to a 4-bit colour image. -/
inductive Fb4Mode where
  | zeroByte | fault
deriving DecidableEq, Repr

/-- A function-valued parameter: the default of its rule, or an uninterpreted function. -/
inductive Setting where
  | standard | free
deriving DecidableEq, Repr

/-- When a fill primitive on a 4-bit image crashes: always (R740, R1101: "any primitive", before any scanline), or only if the
scissor lets a scanline through (R1204's proviso). No ruling of the spec settles it: the model holds both readings (log entry
10, DESIGN CHOICE). -/
inductive Fill4Check where
  | always | withScanline
deriving DecidableEq, Repr

/-- The x gradient of z: kept whole (R612), or its low 5 bits cleared like the others' (R122). No ruling of the spec settles
it: the model holds both readings (log entry 33, DESIGN CHOICE). -/
inductive SpansDz where
  | whole | cleared
deriving DecidableEq, Repr

/-- What host memory that nothing has written holds: values without a law (R1205, R1202), or zeros, "where the model
initializes it" (R207). -/
inductive MemInit where
  | unconstrained | zeros
deriving DecidableEq, Repr

/-- The parameters of R11, and two of the model's own, `fill4Check` and `spansDz`, each for a point on which two rules of the
spec differ. `workers` has no effect (D7, R251). -/
structure Params where
  addrMask : Nat
  rdramSize : Nat
  oobMode : OobMode
  maxScanlines : Nat
  workers : Nat
  crashClearedBySetImage : Bool
  unknownTexel : UnknownTexel
  noise : Noise
  fb4Mode : Fb4Mode
  perspDivide : Setting
  bldivTable : Setting
  keyAlpha : Setting
  cvarray : Setting
  fillKillMode : Setting
  ewOffset : Setting
  copyFetch : Setting
  lodNextPoint : Setting
  acalpha2Cycle : Setting
  midTexelFn : Setting
  fill4Check : Fill4Check
  spansDz : SpansDz
deriving DecidableEq, Repr

/-- The defaults of 92_eei_decisions.md. RDRAM_SIZE has none there: 8 MiB, one of the original machine's two sizes
(R202), is the model's (log entry 1, DESIGN CHOICE), and so are the defaults of `fill4Check` and `spansDz`. -/
def Params.default : Params where
  addrMask := 0x00FFFFFF
  rdramSize := 0x800000
  oobMode := .fault
  maxScanlines := 1024
  workers := 1
  crashClearedBySetImage := true
  unknownTexel := .draw
  noise := .draw
  fb4Mode := .zeroByte
  perspDivide := .standard
  bldivTable := .standard
  keyAlpha := .standard
  cvarray := .standard
  fillKillMode := .standard
  ewOffset := .standard
  copyFetch := .standard
  lodNextPoint := .standard
  acalpha2Cycle := .standard
  midTexelFn := .standard
  fill4Check := .always
  spansDz := .whole

/-- Texture coordinates s, t, w of a pixel, the accumulators of R701. -/
structure TexPoint where
  s : Int
  t : Int
  w : Int
deriving DecidableEq, Repr, Inhabited

/-- `draw(T)` (R1202): the n-th free value. `Rand()` takes its low 15 bits, an unknown texel its low 32, a free copy
group all 64; the state counts the draws (log entry 3). -/
opaque freeBits : Nat → BitVec 64

/-- What byte `a` of host memory holds before anything is written to it (R1205). -/
opaque freeByte : Nat → BitVec 8

/-- What hidden field `h` holds before anything is written to it (R1205, R207). -/
opaque freeHidden : Nat → BitVec 2

/-- NORM_POINT (R802): a 64-entry table no source gives (log entry 17). -/
opaque normPoint : BitVec 6 → BitVec 16

/-- NORM_SLOPE (R802): a 64-entry table no source gives (log entry 17). -/
opaque normSlope : BitVec 6 → BitVec 16

/-- PERSP_DIVIDE = free (R801, D15). -/
opaque perspFree : BitVec 16 → BitVec 16 → BitVec 16 → BitVec 19 × BitVec 19

/-- BLDIV_TABLE = free (R960, D14). -/
opaque bldivFree : BitVec 15 → BitVec 8

/-- KEY_ALPHA = free (R911, D14), of the three 17-bit results and the key widths. -/
opaque keyAlphaFree : BitVec 17 → BitVec 17 → BitVec 17 → BitVec 12 → BitVec 12 → BitVec 12 → BitVec 8

/-- CVARRAY = free (R1032, D37): offx, offy and cvbit; the count stays the popcount, which §8 fixes. -/
opaque cvarrayFree : BitVec 8 → BitVec 2 × BitVec 2 × Bool

/-- What FILL_KILL_MODE may read (R740): image_read_en, z_compare_en, z_update_en, z_source_sel, and the lengths of the
primitive's valid scanlines in the order they are drawn. -/
structure FillKillArgs where
  imageReadEn : Bool
  zCompareEn : Bool
  zUpdateEn : Bool
  zSourceSel : Bool
  lengths : List Int
deriving DecidableEq, Repr

/-- FILL_KILL_MODE = free (R740, R1104, D16), condition and timing in one: after how many of its pixels a fill primitive latches,
or that it does not. -/
opaque fillKillFree : FillKillArgs → Option Nat

/-- The attributes of a primitive (R608). -/
inductive Attr where
  | r | g | b | a | s | t | w | z
deriving DecidableEq, Repr

/-- What EW_OFFSET may read (R613) for one attribute: which it is, "copy mode", "dxhdy negative", flip, and its gradients. -/
structure EwOffsetArgs where
  attr : Attr
  copyMode : Bool
  dxhdyNegative : Bool
  flip : Bool
  dx : BitVec 32
  de : BitVec 32
  dy : BitVec 32
deriving DecidableEq, Repr

/-- EW_OFFSET = free (R613, D24): vdiff and dvdxh of an attribute. -/
opaque ewOffsetFree : EwOffsetArgs → BitVec 32 × BitVec 32

/-- EW_OFFSET = free (R613, D24): the load-flag sub-row, of "dxhdy negative" and flip. -/
opaque ewLoadRowFree : Bool → Bool → BitVec 2

/-- What LOD_NEXT_POINT may read (R852): the cycle type, the pixel's scanline, its index and the span's length, the
accumulators and their increments, and the record of the next scanline, absent at MAX_SCANLINES: its validity and its start
values. -/
structure NextPointArgs where
  cycleType : CycleType
  i : Int
  j : Int
  length : Int
  acc : TexPoint
  inc : TexPoint
  next : Option (Bool × TexPoint)
deriving DecidableEq, Repr

/-- LOD_NEXT_POINT = free (R852, D31). -/
opaque lodNextPointFree : NextPointArgs → TexPoint

/-- ACALPHA_2CYCLE = free (R913, D32), of the cycle-0 alpha and the final alpha. -/
opaque acalphaFree : BitVec 9 → BitVec 9 → BitVec 8

/-- MID_TEXEL_FN = free (R832, D33), of one channel of the four texels. -/
opaque midTexelFree : Int → Int → Int → Int → Int

end Sys2Proof.Config
end

