-- ==== Sys2Proof/WellFormed.lean ====
section
/-! DEFINITION. Which `Instr` terms an encoding can produce. Every field has the width its encoding gives it, so the
one check left is the image width: the encoding holds `width - 1` in 10 bits (R313), so a width is 1..1024. -/

namespace Sys2Proof

/-- A pixel width an image command can encode: 1..1024 (R113, R313). -/
def ImageDesc.widthOk (d : ImageDesc) : Bool :=
  decide (1 ≤ d.width.toNat) && decide (d.width.toNat ≤ 1024)

/-- The instruction is one some command words stand for. -/
def Instr.wf : Instr → Bool
  | .setTextureImage d => d.widthOk
  | .setColorImage d => d.widthOk
  | .nop => true
  | .unassigned01 => true
  | .unassigned02 => true
  | .unassigned03 => true
  | .unassigned04 => true
  | .unassigned05 => true
  | .unassigned06 => true
  | .unassigned07 => true
  | .triFill _ => true
  | .triFillZ _ _ => true
  | .triTex _ _ => true
  | .triTexZ _ _ _ => true
  | .triShade _ _ => true
  | .triShadeZ _ _ _ => true
  | .triShadeTex _ _ _ => true
  | .triShadeTexZ _ _ _ _ => true
  | .unassigned10 => true
  | .unassigned11 => true
  | .unassigned12 => true
  | .unassigned13 => true
  | .unassigned14 => true
  | .unassigned15 => true
  | .unassigned16 => true
  | .unassigned17 => true
  | .unassigned18 => true
  | .unassigned19 => true
  | .unassigned1A => true
  | .unassigned1B => true
  | .unassigned1C => true
  | .unassigned1D => true
  | .unassigned1E => true
  | .unassigned1F => true
  | .unassigned20 => true
  | .unassigned21 => true
  | .unassigned22 => true
  | .unassigned23 => true
  | .texRect _ _ _ => true
  | .texRectFlip _ _ _ => true
  | .syncLoad => true
  | .syncPipe => true
  | .syncTile => true
  | .syncFull => true
  | .setKeyGb _ _ _ _ _ _ => true
  | .setKeyR _ _ _ => true
  | .setConvert _ _ _ _ _ _ => true
  | .setScissor _ _ _ => true
  | .setPrimDepth _ _ => true
  | .setOtherModes _ => true
  | .loadTlut _ _ => true
  | .unassigned31 => true
  | .setTileSize _ _ => true
  | .loadBlock _ _ _ _ _ => true
  | .loadTile _ _ => true
  | .setTile _ _ => true
  | .fillRect _ => true
  | .setFillColor _ => true
  | .setFogColor _ => true
  | .setBlendColor _ => true
  | .setPrimColor _ _ _ => true
  | .setEnvColor _ => true
  | .setCombine _ => true
  | .setMaskImage _ => true

end Sys2Proof
end

