-- ==== Sys2Proof/Decode.lean ====
section
/-! DEFINITION. The decoder, total on any list of command words and on any bytes, and after it the encoder (30_encoding.md).
The decoder never rejects an opcode: all 64 values are assigned or are 1-word no-ops (R306). It rejects, by name, only a
list that holds too few words for the command (R301, R1207). -/

namespace Sys2Proof

/-! ## Fields and lengths -/

/-- `w[lo+len-1:lo]` (R12). -/
def field (w : Word64) (lo len : Nat) : BitVec len := w.extractLsb' lo len

/-- `w[i]` (R12). -/
def bit (w : Word64) (i : Nat) : Bool := w.getLsbD i

/-- The opcode `w0[61:56]`; bits 63:62 are ignored (R300). -/
def opcode (w0 : Word64) : BitVec 6 := field w0 56 6

/-- LEN[op] in 64-bit words (R302): a triangle has 4 edge words, 8 shade words if bit 2 of the opcode is set, 8 texture
words if bit 1 is, 2 depth words if bit 0 is; the two texture rectangles have 2 words; every other command 1. -/
def cmdLen (op : BitVec 6) : Nat :=
  if 0x08 ≤ op.toNat ∧ op.toNat ≤ 0x0F then
    4 + (if op.getLsbD 2 then 8 else 0) + (if op.getLsbD 1 then 8 else 0) + (if op.getLsbD 0 then 2 else 0)
  else if op.toNat = 0x24 ∨ op.toNat = 0x25 then 2
  else 1

/-- Word `i` of the command that begins the list. -/
def wordAt (ws : List Word64) (i : Nat) : Word64 := ws.getD i 0

/-! ## Enumerated fields -/

/-- `om.cycle_type` (R105). -/
def CycleType.ofBits (b : BitVec 2) : CycleType :=
  match b.toNat with
  | 0 => .oneCycle
  | 1 => .twoCycle
  | 2 => .copy
  | _ => .fill

/-- Size codes (R116). -/
def PixSize.ofBits (b : BitVec 2) : PixSize :=
  match b.toNat with
  | 0 => .b4
  | 1 => .b8
  | 2 => .b16
  | _ => .b32

/-- `om.z_mode` (R105). -/
def ZMode.ofBits (b : BitVec 2) : ZMode :=
  match b.toNat with
  | 0 => .opaqueZ
  | 1 => .interpenetrating
  | 2 => .transparent
  | _ => .decal

/-- `om.cvg_dest` (R105). -/
def CvgDest.ofBits (b : BitVec 2) : CvgDest :=
  match b.toNat with
  | 0 => .clamp
  | 1 => .wrap
  | 2 => .zap
  | _ => .save

/-- `om.rgb_dither_sel` (R105). -/
def RgbDitherSel.ofBits (b : BitVec 2) : RgbDitherSel :=
  match b.toNat with
  | 0 => .magic
  | 1 => .bayer
  | 2 => .noise
  | _ => .none

/-- `om.alpha_dither_sel` (R105). -/
def AlphaDitherSel.ofBits (b : BitVec 2) : AlphaDitherSel :=
  match b.toNat with
  | 0 => .pattern
  | 1 => .inverted
  | 2 => .noise
  | _ => .none

/-- The code of a cycle type (R105). -/
def CycleType.bits : CycleType → BitVec 2
  | .oneCycle => 0
  | .twoCycle => 1
  | .copy => 2
  | .fill => 3

/-- The code of a pixel size (R116). -/
def PixSize.bits : PixSize → BitVec 2
  | .b4 => 0
  | .b8 => 1
  | .b16 => 2
  | .b32 => 3

/-- The code of a depth mode (R105). -/
def ZMode.bits : ZMode → BitVec 2
  | .opaqueZ => 0
  | .interpenetrating => 1
  | .transparent => 2
  | .decal => 3

/-- The code of a coverage destination (R105). -/
def CvgDest.bits : CvgDest → BitVec 2
  | .clamp => 0
  | .wrap => 1
  | .zap => 2
  | .save => 3

/-- The code of an RGB dither selector (R105). -/
def RgbDitherSel.bits : RgbDitherSel → BitVec 2
  | .magic => 0
  | .bayer => 1
  | .noise => 2
  | .none => 3

/-- The code of an alpha dither selector (R105). -/
def AlphaDitherSel.bits : AlphaDitherSel → BitVec 2
  | .pattern => 0
  | .inverted => 1
  | .noise => 2
  | .none => 3

/-! ## Field layouts (section 3 of 30_encoding.md) -/

/-- A colour in the low word (R310). -/
def decodeColor (w : Word64) : Rgba8 :=
  { r := field w 24 8, g := field w 16 8, b := field w 8 8, a := field w 0 8 }

/-- SET_OTHER_MODES (R311). -/
def decodeOtherModes (w : Word64) : OtherModes where
  atomicPrim := bit w 55
  cycleType := .ofBits (field w 52 2)
  perspTexEn := bit w 51
  detailTexEn := bit w 50
  sharpenTexEn := bit w 49
  texLodEn := bit w 48
  enTlut := bit w 47
  tlutType := bit w 46
  sampleType := bit w 45
  midTexel := bit w 44
  biLerp0 := bit w 43
  biLerp1 := bit w 42
  convertOne := bit w 41
  keyEn := bit w 40
  rgbDitherSel := .ofBits (field w 38 2)
  alphaDitherSel := .ofBits (field w 36 2)
  blend0 := { m1a := field w 30 2, m1b := field w 26 2, m2a := field w 22 2, m2b := field w 18 2 }
  blend1 := { m1a := field w 28 2, m1b := field w 24 2, m2a := field w 20 2, m2b := field w 16 2 }
  forceBlend := bit w 14
  alphaCvgSelect := bit w 13
  cvgTimesAlpha := bit w 12
  zMode := .ofBits (field w 10 2)
  cvgDest := .ofBits (field w 8 2)
  colorOnCvg := bit w 7
  imageReadEn := bit w 6
  zUpdateEn := bit w 5
  zCompareEn := bit w 4
  antialiasEn := bit w 3
  zSourceSel := bit w 2
  ditherAlphaEn := bit w 1
  alphaCompareEn := bit w 0

/-- SET_COMBINE (R312). -/
def decodeCombine (w : Word64) : CombineMode where
  c0 := { subArgb := field w 52 4, subBrgb := field w 28 4, mulRgb := field w 47 5, addRgb := field w 15 3,
          subAa := field w 44 3, subBa := field w 12 3, mulA := field w 41 3, addA := field w 9 3 }
  c1 := { subArgb := field w 37 4, subBrgb := field w 24 4, mulRgb := field w 32 5, addRgb := field w 6 3,
          subAa := field w 21 3, subBa := field w 3 3, mulA := field w 18 3, addA := field w 0 3 }

/-- SET_COLOR_IMAGE and SET_TEXTURE_IMAGE (R313): the width is the field plus one. -/
def decodeImage (w : Word64) : ImageDesc where
  format := field w 53 3
  size := .ofBits (field w 51 2)
  width := (field w 32 10).setWidth 11 + 1
  address := field w 0 26

/-- SET_TILE (R314). -/
def decodeTileMode (w : Word64) : TileMode where
  format := field w 53 3
  size := .ofBits (field w 51 2)
  line := field w 41 9
  tmem := field w 32 9
  palette := field w 20 4
  ct := bit w 19
  mt := bit w 18
  maskT := field w 14 4
  shiftT := field w 10 4
  cs := bit w 9
  ms := bit w 8
  maskS := field w 4 4
  shiftS := field w 0 4

/-- The tile number of SET_TILE, SET_TILE_SIZE, the loads and the texture rectangles (R314, R315, R317). -/
def decodeTile (w : Word64) : BitVec 3 := field w 24 3

/-- SET_TILE_SIZE, LOAD_TILE, LOAD_TLUT (R315). -/
def decodeBounds (w : Word64) : TileBounds :=
  { sl := field w 44 12, tl := field w 32 12, sh := field w 12 12, th := field w 0 12 }

/-- FILL_RECT and word 0 of the texture rectangles (R317). -/
def decodeRect (w : Word64) : Rect :=
  { xl := field w 44 12, yl := field w 32 12, xh := field w 12 12, yh := field w 0 12 }

/-- SET_SCISSOR's rectangle (R316). -/
def decodeScissor (w : Word64) : Rect :=
  { xh := field w 44 12, yh := field w 32 12, xl := field w 12 12, yl := field w 0 12 }

/-- Word 1 of the texture rectangles (R317). -/
def decodeRectTex (w : Word64) : RectTex :=
  { s := field w 48 16, t := field w 32 16, dsdx := field w 16 16, dtdy := field w 0 16 }

/-- The triangle edge words (R318). -/
def decodeEdge (ws : List Word64) : EdgeCoeffs where
  flip := bit (wordAt ws 0) 55
  maxLevel := field (wordAt ws 0) 51 3
  tile := field (wordAt ws 0) 48 3
  yl := field (wordAt ws 0) 32 14
  ym := field (wordAt ws 0) 16 14
  yh := field (wordAt ws 0) 0 14
  xl := field (wordAt ws 1) 32 28
  dxldy := field (wordAt ws 1) 0 30
  xh := field (wordAt ws 2) 32 28
  dxhdy := field (wordAt ws 2) 0 30
  xm := field (wordAt ws 3) 32 28
  dxmdy := field (wordAt ws 3) 0 30

/-- One channel of an 8-word attribute block at word `at_`, its halves at bit `lo` of each word (R319, R320):
integer halves in words +0 (value), +1 (dx), +4 (de), +5 (dy), fraction halves in words +2, +3, +6, +7. -/
def decodeChannel (ws : List Word64) (at_ lo : Nat) : Coeff where
  v := field (wordAt ws at_) lo 16 ++ field (wordAt ws (at_ + 2)) lo 16
  dx := field (wordAt ws (at_ + 1)) lo 16 ++ field (wordAt ws (at_ + 3)) lo 16
  de := field (wordAt ws (at_ + 4)) lo 16 ++ field (wordAt ws (at_ + 6)) lo 16
  dy := field (wordAt ws (at_ + 5)) lo 16 ++ field (wordAt ws (at_ + 7)) lo 16

/-- The shade words (R319). -/
def decodeShade (ws : List Word64) (at_ : Nat) : ShadeCoeffs where
  r := decodeChannel ws at_ 48
  g := decodeChannel ws at_ 32
  b := decodeChannel ws at_ 16
  a := decodeChannel ws at_ 0

/-- The texture words (R320); bits 15:0 of each word are ignored. -/
def decodeTexCoeffs (ws : List Word64) (at_ : Nat) : TexCoeffs where
  s := decodeChannel ws at_ 48
  t := decodeChannel ws at_ 32
  w := decodeChannel ws at_ 16

/-- The depth words (R321). -/
def decodeDepth (ws : List Word64) (at_ : Nat) : Coeff where
  v := field (wordAt ws at_) 32 32
  dx := field (wordAt ws at_) 0 32
  de := field (wordAt ws (at_ + 1)) 32 32
  dy := field (wordAt ws (at_ + 1)) 0 32

/-! ## The opcode map (R304, R306) -/

/-- The command whose words begin the list; words the list does not hold read as 0 (the caller checks the length). -/
def decodeCmd (ws : List Word64) : Instr :=
  let w := wordAt ws 0
  match (opcode w).toNat with
  | 0x00 => .nop
  | 0x01 => .unassigned01
  | 0x02 => .unassigned02
  | 0x03 => .unassigned03
  | 0x04 => .unassigned04
  | 0x05 => .unassigned05
  | 0x06 => .unassigned06
  | 0x07 => .unassigned07
  | 0x08 => .triFill (decodeEdge ws)
  | 0x09 => .triFillZ (decodeEdge ws) (decodeDepth ws 4)
  | 0x0A => .triTex (decodeEdge ws) (decodeTexCoeffs ws 4)
  | 0x0B => .triTexZ (decodeEdge ws) (decodeTexCoeffs ws 4) (decodeDepth ws 12)
  | 0x0C => .triShade (decodeEdge ws) (decodeShade ws 4)
  | 0x0D => .triShadeZ (decodeEdge ws) (decodeShade ws 4) (decodeDepth ws 12)
  | 0x0E => .triShadeTex (decodeEdge ws) (decodeShade ws 4) (decodeTexCoeffs ws 12)
  | 0x0F => .triShadeTexZ (decodeEdge ws) (decodeShade ws 4) (decodeTexCoeffs ws 12) (decodeDepth ws 20)
  | 0x10 => .unassigned10
  | 0x11 => .unassigned11
  | 0x12 => .unassigned12
  | 0x13 => .unassigned13
  | 0x14 => .unassigned14
  | 0x15 => .unassigned15
  | 0x16 => .unassigned16
  | 0x17 => .unassigned17
  | 0x18 => .unassigned18
  | 0x19 => .unassigned19
  | 0x1A => .unassigned1A
  | 0x1B => .unassigned1B
  | 0x1C => .unassigned1C
  | 0x1D => .unassigned1D
  | 0x1E => .unassigned1E
  | 0x1F => .unassigned1F
  | 0x20 => .unassigned20
  | 0x21 => .unassigned21
  | 0x22 => .unassigned22
  | 0x23 => .unassigned23
  | 0x24 => .texRect (decodeRect w) (decodeTile w) (decodeRectTex (wordAt ws 1))
  | 0x25 => .texRectFlip (decodeRect w) (decodeTile w) (decodeRectTex (wordAt ws 1))
  | 0x26 => .syncLoad
  | 0x27 => .syncPipe
  | 0x28 => .syncTile
  | 0x29 => .syncFull
  | 0x2A => .setKeyGb (field w 44 12) (field w 32 12) (field w 24 8) (field w 16 8) (field w 8 8) (field w 0 8)
  | 0x2B => .setKeyR (field w 16 12) (field w 8 8) (field w 0 8)
  | 0x2C => .setConvert (field w 45 9) (field w 36 9) (field w 27 9) (field w 18 9) (field w 9 9) (field w 0 9)
  | 0x2D => .setScissor (decodeScissor w) (bit w 25) (bit w 24)
  | 0x2E => .setPrimDepth (field w 16 15) (field w 0 16)
  | 0x2F => .setOtherModes (decodeOtherModes w)
  | 0x30 => .loadTlut (decodeTile w) (decodeBounds w)
  | 0x31 => .unassigned31
  | 0x32 => .setTileSize (decodeTile w) (decodeBounds w)
  | 0x33 => .loadBlock (decodeTile w) (field w 44 12) (field w 32 12) (field w 12 12) (field w 0 12)
  | 0x34 => .loadTile (decodeTile w) (decodeBounds w)
  | 0x35 => .setTile (decodeTile w) (decodeTileMode w)
  | 0x36 => .fillRect (decodeRect w)
  | 0x37 => .setFillColor (field w 0 32)
  | 0x38 => .setFogColor (decodeColor w)
  | 0x39 => .setBlendColor (decodeColor w)
  | 0x3A => .setPrimColor (field w 40 5) (field w 32 8) (decodeColor w)
  | 0x3B => .setEnvColor (decodeColor w)
  | 0x3C => .setCombine (decodeCombine w)
  | 0x3D => .setTextureImage (decodeImage w)
  | 0x3E => .setMaskImage (field w 0 26)
  | _ => .setColorImage (decodeImage w)

/-- Why a list of words is no command yet (R301, R1207). -/
inductive DecodeError where
  /-- No word is left. -/
  | noWord
  /-- The opcode needs `need` words and only `have_` are left. -/
  | tooFewWords (op : BitVec 6) (need have_ : Nat)
deriving DecidableEq, Repr

/-- Decode the command that begins the list: the command and its length in words (R301, R305). -/
def decode (ws : List Word64) : Except DecodeError (Instr × Nat) :=
  match ws with
  | [] => .error .noWord
  | w0 :: _ =>
    let need := cmdLen (opcode w0)
    if ws.length < need then .error (.tooFewWords (opcode w0) need ws.length)
    else .ok (decodeCmd ws, need)

/-! ## Bytes: a command word in memory is big-endian (R300, R203) -/

/-- The word of eight bytes, the first the most significant. -/
def wordOfBytes (b0 b1 b2 b3 b4 b5 b6 b7 : Byte) : Word64 :=
  b0 ++ b1 ++ b2 ++ b3 ++ b4 ++ b5 ++ b6 ++ b7

/-- The eight bytes of a word, the most significant first. -/
def bytesOfWord (w : Word64) : List Byte :=
  [field w 56 8, field w 48 8, field w 40 8, field w 32 8, field w 24 8, field w 16 8, field w 8 8, field w 0 8]

/-- The whole words a list of bytes holds; up to seven bytes at its end are no word. -/
def wordsOfBytes : List Byte → List Word64
  | b0 :: b1 :: b2 :: b3 :: b4 :: b5 :: b6 :: b7 :: rest => wordOfBytes b0 b1 b2 b3 b4 b5 b6 b7 :: wordsOfBytes rest
  | _ => []

/-- Decode a command stored in memory bytes. -/
def decodeBytes (bs : List Byte) : Except DecodeError (Instr × Nat) := decode (wordsOfBytes bs)

/-! ## The opcode table's numbering -/

/-- The longest command, TRI_SHADE_TEX_Z, in words (R302). -/
def maxCmdWords : Nat := 22

/-- The words of an instruction whose bits are `w`, numbered as spec/opcode_table.json numbers them: bit 0 is the least
significant bit of word 0, word k is bits 64k+63..64k; the bits at and above `nbits` are 0. -/
def tableWords (nbits w : Nat) : List Word64 :=
  (List.range maxCmdWords).map (fun k => BitVec.ofNat 64 ((w % (1 <<< nbits)) >>> (64 * k)))

/-- The instruction the decoder reads from table bits, through its bytes in memory order. -/
def decodeTableWord (nbits w : Nat) : Option Instr :=
  match decodeBytes ((tableWords nbits w).flatMap bytesOfWord) with
  | .ok (i, _) => some i
  | .error _ => none

/-! ## The encoder, written from the same layouts -/

/-- One field of a word: its lowest bit and its value. -/
structure Field where
  lo : Nat
  len : Nat
  val : BitVec len

/-- A word from its fields; bits no field names are 0. -/
def pack : List Field → Word64
  | [] => 0
  | f :: fs => (f.val.setWidth 64 <<< f.lo) ||| pack fs

/-- A field `[lo+len-1:lo]`. -/
def fld (lo : Nat) {len : Nat} (v : BitVec len) : Field := { lo := lo, len := len, val := v }

/-- A one-bit field. -/
def flag (i : Nat) (b : Bool) : Field := fld i (BitVec.ofBool b)

/-- A command's first word: the opcode and its other fields. -/
def packOp (op : BitVec 6) (fs : List Field) : Word64 := pack (fld 56 op :: fs)

/-- R310. -/
def colorFields (c : Rgba8) : List Field := [fld 24 c.r, fld 16 c.g, fld 8 c.b, fld 0 c.a]

/-- R311. -/
def otherModesFields (m : OtherModes) : List Field :=
  [flag 55 m.atomicPrim, fld 52 m.cycleType.bits, flag 51 m.perspTexEn, flag 50 m.detailTexEn, flag 49 m.sharpenTexEn,
   flag 48 m.texLodEn, flag 47 m.enTlut, flag 46 m.tlutType, flag 45 m.sampleType, flag 44 m.midTexel] ++
  [flag 43 m.biLerp0, flag 42 m.biLerp1, flag 41 m.convertOne, flag 40 m.keyEn, fld 38 m.rgbDitherSel.bits,
   fld 36 m.alphaDitherSel.bits, fld 30 m.blend0.m1a, fld 28 m.blend1.m1a, fld 26 m.blend0.m1b, fld 24 m.blend1.m1b] ++
  [fld 22 m.blend0.m2a, fld 20 m.blend1.m2a, fld 18 m.blend0.m2b, fld 16 m.blend1.m2b, flag 14 m.forceBlend,
   flag 13 m.alphaCvgSelect, flag 12 m.cvgTimesAlpha, fld 10 m.zMode.bits, fld 8 m.cvgDest.bits, flag 7 m.colorOnCvg] ++
  [flag 6 m.imageReadEn, flag 5 m.zUpdateEn, flag 4 m.zCompareEn, flag 3 m.antialiasEn, flag 2 m.zSourceSel,
   flag 1 m.ditherAlphaEn, flag 0 m.alphaCompareEn]

/-- R312. -/
def combineFields (m : CombineMode) : List Field :=
  [fld 52 m.c0.subArgb, fld 47 m.c0.mulRgb, fld 44 m.c0.subAa, fld 41 m.c0.mulA, fld 37 m.c1.subArgb, fld 32 m.c1.mulRgb,
   fld 28 m.c0.subBrgb, fld 24 m.c1.subBrgb, fld 21 m.c1.subAa, fld 18 m.c1.mulA, fld 15 m.c0.addRgb, fld 12 m.c0.subBa,
   fld 9 m.c0.addA, fld 6 m.c1.addRgb, fld 3 m.c1.subBa, fld 0 m.c1.addA]

/-- R313: the field is the width minus one. -/
def imageFields (d : ImageDesc) : List Field :=
  [fld 53 d.format, fld 51 d.size.bits, fld 32 ((d.width - 1).setWidth 10), fld 0 d.address]

/-- R314. -/
def tileModeFields (m : TileMode) : List Field :=
  [fld 53 m.format, fld 51 m.size.bits, fld 41 m.line, fld 32 m.tmem, fld 20 m.palette, flag 19 m.ct, flag 18 m.mt,
   fld 14 m.maskT, fld 10 m.shiftT, flag 9 m.cs, flag 8 m.ms, fld 4 m.maskS, fld 0 m.shiftS]

/-- R315. -/
def boundsFields (b : TileBounds) : List Field := [fld 44 b.sl, fld 32 b.tl, fld 12 b.sh, fld 0 b.th]

/-- R317. -/
def rectFields (r : Rect) : List Field := [fld 44 r.xl, fld 32 r.yl, fld 12 r.xh, fld 0 r.yh]

/-- R316. -/
def scissorFields (r : Rect) : List Field := [fld 44 r.xh, fld 32 r.yh, fld 12 r.xl, fld 0 r.yl]

/-- R317, word 1. -/
def encodeRectTex (x : RectTex) : Word64 := pack [fld 48 x.s, fld 32 x.t, fld 16 x.dsdx, fld 0 x.dtdy]

/-- R318: the four edge words under an opcode. -/
def encodeEdge (op : BitVec 6) (e : EdgeCoeffs) : List Word64 :=
  [packOp op [flag 55 e.flip, fld 51 e.maxLevel, fld 48 e.tile, fld 32 e.yl, fld 16 e.ym, fld 0 e.yh],
   pack [fld 32 e.xl, fld 0 e.dxldy], pack [fld 32 e.xh, fld 0 e.dxhdy], pack [fld 32 e.xm, fld 0 e.dxmdy]]

/-- The integer half of an attribute value (R319). -/
def intHalf (v : BitVec 32) : BitVec 16 := v.extractLsb' 16 16

/-- The fraction half of an attribute value (R319). -/
def fracHalf (v : BitVec 32) : BitVec 16 := v.extractLsb' 0 16

/-- One word of an attribute block: the same half of four channels (R319). -/
def fourHalves (a b c d : BitVec 16) : Word64 := pack [fld 48 a, fld 32 b, fld 16 c, fld 0 d]

/-- An 8-word attribute block of four channels (R319). -/
def encodeChannels (a b c d : Coeff) : List Word64 :=
  [fourHalves (intHalf a.v) (intHalf b.v) (intHalf c.v) (intHalf d.v),
   fourHalves (intHalf a.dx) (intHalf b.dx) (intHalf c.dx) (intHalf d.dx),
   fourHalves (fracHalf a.v) (fracHalf b.v) (fracHalf c.v) (fracHalf d.v),
   fourHalves (fracHalf a.dx) (fracHalf b.dx) (fracHalf c.dx) (fracHalf d.dx),
   fourHalves (intHalf a.de) (intHalf b.de) (intHalf c.de) (intHalf d.de),
   fourHalves (intHalf a.dy) (intHalf b.dy) (intHalf c.dy) (intHalf d.dy),
   fourHalves (fracHalf a.de) (fracHalf b.de) (fracHalf c.de) (fracHalf d.de),
   fourHalves (fracHalf a.dy) (fracHalf b.dy) (fracHalf c.dy) (fracHalf d.dy)]

/-- An attribute of value and gradients 0 (R322). -/
def Coeff.zero : Coeff := { v := 0, dx := 0, de := 0, dy := 0 }

/-- The shade words (R319). -/
def encodeShade (c : ShadeCoeffs) : List Word64 := encodeChannels c.r c.g c.b c.a

/-- The texture words (R320), the unused channel 0. -/
def encodeTexCoeffs (t : TexCoeffs) : List Word64 := encodeChannels t.s t.t t.w Coeff.zero

/-- The depth words (R321). -/
def encodeDepth (z : Coeff) : List Word64 := [pack [fld 32 z.v, fld 0 z.dx], pack [fld 32 z.de, fld 0 z.dy]]

/-- The opcode of an instruction (R304, R306). -/
def Instr.op : Instr → BitVec 6
  | .nop => 0x00
  | .unassigned01 => 0x01
  | .unassigned02 => 0x02
  | .unassigned03 => 0x03
  | .unassigned04 => 0x04
  | .unassigned05 => 0x05
  | .unassigned06 => 0x06
  | .unassigned07 => 0x07
  | .triFill _ => 0x08
  | .triFillZ _ _ => 0x09
  | .triTex _ _ => 0x0A
  | .triTexZ _ _ _ => 0x0B
  | .triShade _ _ => 0x0C
  | .triShadeZ _ _ _ => 0x0D
  | .triShadeTex _ _ _ => 0x0E
  | .triShadeTexZ _ _ _ _ => 0x0F
  | .unassigned10 => 0x10
  | .unassigned11 => 0x11
  | .unassigned12 => 0x12
  | .unassigned13 => 0x13
  | .unassigned14 => 0x14
  | .unassigned15 => 0x15
  | .unassigned16 => 0x16
  | .unassigned17 => 0x17
  | .unassigned18 => 0x18
  | .unassigned19 => 0x19
  | .unassigned1A => 0x1A
  | .unassigned1B => 0x1B
  | .unassigned1C => 0x1C
  | .unassigned1D => 0x1D
  | .unassigned1E => 0x1E
  | .unassigned1F => 0x1F
  | .unassigned20 => 0x20
  | .unassigned21 => 0x21
  | .unassigned22 => 0x22
  | .unassigned23 => 0x23
  | .texRect _ _ _ => 0x24
  | .texRectFlip _ _ _ => 0x25
  | .syncLoad => 0x26
  | .syncPipe => 0x27
  | .syncTile => 0x28
  | .syncFull => 0x29
  | .setKeyGb _ _ _ _ _ _ => 0x2A
  | .setKeyR _ _ _ => 0x2B
  | .setConvert _ _ _ _ _ _ => 0x2C
  | .setScissor _ _ _ => 0x2D
  | .setPrimDepth _ _ => 0x2E
  | .setOtherModes _ => 0x2F
  | .loadTlut _ _ => 0x30
  | .unassigned31 => 0x31
  | .setTileSize _ _ => 0x32
  | .loadBlock _ _ _ _ _ => 0x33
  | .loadTile _ _ => 0x34
  | .setTile _ _ => 0x35
  | .fillRect _ => 0x36
  | .setFillColor _ => 0x37
  | .setFogColor _ => 0x38
  | .setBlendColor _ => 0x39
  | .setPrimColor _ _ _ => 0x3A
  | .setEnvColor _ => 0x3B
  | .setCombine _ => 0x3C
  | .setTextureImage _ => 0x3D
  | .setMaskImage _ => 0x3E
  | .setColorImage _ => 0x3F

/-- The fields of a one-word command beside its opcode; the first word's of a rectangle. -/
def Instr.fields : Instr → List Field
  | .texRect r tile _ => fld 24 tile :: rectFields r
  | .texRectFlip r tile _ => fld 24 tile :: rectFields r
  | .setKeyGb wg wb cg sg cb sb => [fld 44 wg, fld 32 wb, fld 24 cg, fld 16 sg, fld 8 cb, fld 0 sb]
  | .setKeyR w c s => [fld 16 w, fld 8 c, fld 0 s]
  | .setConvert k0 k1 k2 k3 k4 k5 => [fld 45 k0, fld 36 k1, fld 27 k2, fld 18 k3, fld 9 k4, fld 0 k5]
  | .setScissor r f k => flag 25 f :: flag 24 k :: scissorFields r
  | .setPrimDepth z dz => [fld 16 z, fld 0 dz]
  | .setOtherModes m => otherModesFields m
  | .loadTlut tile b => fld 24 tile :: boundsFields b
  | .setTileSize tile b => fld 24 tile :: boundsFields b
  | .loadBlock tile sl tl sh dxt => [fld 24 tile, fld 44 sl, fld 32 tl, fld 12 sh, fld 0 dxt]
  | .loadTile tile b => fld 24 tile :: boundsFields b
  | .setTile tile m => fld 24 tile :: tileModeFields m
  | .fillRect r => rectFields r
  | .setFillColor c => [fld 0 c]
  | .setFogColor c => colorFields c
  | .setBlendColor c => colorFields c
  | .setPrimColor lmin lfrac c => fld 40 lmin :: fld 32 lfrac :: colorFields c
  | .setEnvColor c => colorFields c
  | .setCombine m => combineFields m
  | .setTextureImage d => imageFields d
  | .setMaskImage a => [fld 0 a]
  | .setColorImage d => imageFields d
  | .nop => []
  | .unassigned01 => []
  | .unassigned02 => []
  | .unassigned03 => []
  | .unassigned04 => []
  | .unassigned05 => []
  | .unassigned06 => []
  | .unassigned07 => []
  | .triFill _ => []
  | .triFillZ _ _ => []
  | .triTex _ _ => []
  | .triTexZ _ _ _ => []
  | .triShade _ _ => []
  | .triShadeZ _ _ _ => []
  | .triShadeTex _ _ _ => []
  | .triShadeTexZ _ _ _ _ => []
  | .unassigned10 => []
  | .unassigned11 => []
  | .unassigned12 => []
  | .unassigned13 => []
  | .unassigned14 => []
  | .unassigned15 => []
  | .unassigned16 => []
  | .unassigned17 => []
  | .unassigned18 => []
  | .unassigned19 => []
  | .unassigned1A => []
  | .unassigned1B => []
  | .unassigned1C => []
  | .unassigned1D => []
  | .unassigned1E => []
  | .unassigned1F => []
  | .unassigned20 => []
  | .unassigned21 => []
  | .unassigned22 => []
  | .unassigned23 => []
  | .syncLoad => []
  | .syncPipe => []
  | .syncTile => []
  | .syncFull => []
  | .unassigned31 => []

/-- The command words of an instruction: bits no field names are 0 (R307). -/
def encode (i : Instr) : List Word64 :=
  match i with
  | .triFill e => encodeEdge i.op e
  | .triFillZ e z => encodeEdge i.op e ++ encodeDepth z
  | .triTex e t => encodeEdge i.op e ++ encodeTexCoeffs t
  | .triTexZ e t z => encodeEdge i.op e ++ encodeTexCoeffs t ++ encodeDepth z
  | .triShade e c => encodeEdge i.op e ++ encodeShade c
  | .triShadeZ e c z => encodeEdge i.op e ++ encodeShade c ++ encodeDepth z
  | .triShadeTex e c t => encodeEdge i.op e ++ encodeShade c ++ encodeTexCoeffs t
  | .triShadeTexZ e c t z => encodeEdge i.op e ++ encodeShade c ++ encodeTexCoeffs t ++ encodeDepth z
  | .texRect _ _ x => [packOp i.op i.fields, encodeRectTex x]
  | .texRectFlip _ _ x => [packOp i.op i.fields, encodeRectTex x]
  | _ => [packOp i.op i.fields]

end Sys2Proof
end

