-- ==== Sys2Proof/Machine/Bits.lean ====
section
/-! DEFINITION. The integer primitives of R13: bitwise operations on two's-complement integers of unbounded width with a
non-negative mask, sign extension, and clamping. `v >> n` of the spec is `v >>> n` on `Int` (floor division by 2^n). -/

namespace Sys2Proof.Machine

/-- `v & m`, for a mask `m` without a sign (R13). The bits of a negative `v = -(b+1)` are the complement of `b`'s. -/
def iand (v : Int) (m : Nat) : Nat :=
  match v with
  | .ofNat a => a &&& m
  | .negSucc b => m - (m &&& b)

/-- `v & m` is not 0. -/
def hasBits (v : Int) (m : Nat) : Bool := iand v m != 0

/-- `v & ~m` (R13). -/
def clearBits (v : Int) (m : Nat) : Int := v - iand v m

/-- `v | m` (R13). -/
def setBits (v : Int) (m : Nat) : Int := v - iand v m + m

/-- `~v` (R13). -/
def inot (v : Int) : Int := -v - 1

/-- `v xor -(b)` for a bit `b`: `v`, or its complement (R813). -/
def xorSign (v : Int) (b : Bool) : Int := if b then inot v else v

/-- `sext_n(v)` (R13): the low `n` bits of `v` read as signed. -/
def sext (n : Nat) (v : Int) : Int := (BitVec.ofInt n v).toInt

/-- `v << n` (R13). -/
def ishl (v : Int) (n : Nat) : Int := v * ((1 <<< n : Nat) : Int)

/-- `clamp(v, lo, hi)` (R13). -/
def clampInt (v lo hi : Int) : Int := min (max v lo) hi

/-- The number of 1 bits of a value below 2^n. -/
def popcount (n : Nat) (v : Nat) : Nat :=
  ((List.range n).filter (fun i => v.testBit i)).length

/-- A one-bit number. -/
def bitNat (b : Bool) : Nat := if b then 1 else 0

end Sys2Proof.Machine
end

