-- ==== Sys2Proof/Machine/Sparse.lean ====
section
/-! DEFINITION. Sparse storage: a list of (index, value) pairs in ONE canonical form, indices strictly rising and no entry
equal to the value `d` that an unlisted index is known to hold (`none`: nothing is known of it). Host memory, hidden bits,
TMEM, the coverage buffer and the span buffer are held this way, so that equal contents are equal lists. -/

namespace Sys2Proof.Machine

/-- The value at index `k`; `u` if none is listed. -/
def sparseGet {α : Type} (u : α) : List (Nat × α) → Nat → α
  | [], _ => u
  | (j, v) :: rest, k => if j = k then v else if k < j then u else sparseGet u rest k

/-- Put `v` in front of a list whose indices are above `k`, unless an unlisted index is known to hold it. -/
def sparseCons {α : Type} [DecidableEq α] (d : Option α) (k : Nat) (v : α) (m : List (Nat × α)) : List (Nat × α) :=
  if d = some v then m else (k, v) :: m

/-- Store `v` at index `k`, keeping the canonical form. -/
def sparsePut {α : Type} [DecidableEq α] (d : Option α) : List (Nat × α) → Nat → α → List (Nat × α)
  | [], k, v => sparseCons d k v []
  | (j, u) :: rest, k, v =>
    if j = k then sparseCons d k v rest
    else if k < j then sparseCons d k v ((j, u) :: rest)
    else (j, u) :: sparsePut d rest k v

/-- The canonical form: every index is at least `lo`, indices rise strictly, no entry holds what an unlisted index does. -/
def sparseWfFrom {α : Type} [DecidableEq α] (d : Option α) : Nat → List (Nat × α) → Bool
  | _, [] => true
  | lo, (k, v) :: rest => decide (lo ≤ k) && decide (d ≠ some v) && sparseWfFrom d (k + 1) rest

/-- The canonical form (from index 0). -/
def sparseWf {α : Type} [DecidableEq α] (d : Option α) (m : List (Nat × α)) : Bool := sparseWfFrom d 0 m

/-- Every listed index is below `n`. -/
def sparseBelow {α : Type} (n : Nat) (m : List (Nat × α)) : Bool := m.all (fun e => decide (e.1 < n))

end Sys2Proof.Machine
end

