-- ==== Sys2Proof/Machine/State.lean ====
section
/-! DEFINITION. The state of the engine (10_state.md), of the host memory it works on, and of the host's inputs and sink;
the faults and refusals of a step; the state after reset (R1203). Plain data throughout.

The state is in five parts, so that what a command may change shows in its type: the pipeline registers (`regs`), TMEM, what
the edge walker writes (`walk`), what a pixel's stages may write (`pixel`), and the command source. -/

namespace Sys2Proof.Machine

open Sys2Proof.Config

/-! ## Pipeline registers (R105 to R118) -/

/-- A tile descriptor (R117): the fields of SET_TILE and the bounds. -/
structure Tile extends TileMode, TileBounds
deriving DecidableEq, Repr

/-- The pipeline register state (10_state.md sections 3 and 4). -/
structure Regs where
  om : OtherModes
  cc : CombineMode
  fogColor : Rgba8
  blendColor : Rgba8
  primColor : Rgba8
  envColor : Rgba8
  fillColor : BitVec 32
  primLodMin : BitVec 5
  primLodFrac : BitVec 8
  keyWidth : Rgb (BitVec 12)
  keyCenter : Rgb (BitVec 8)
  keyScale : Rgb (BitVec 8)
  k0 : BitVec 9
  k1 : BitVec 9
  k2 : BitVec 9
  k3 : BitVec 9
  k4 : BitVec 9
  k5 : BitVec 9
  primZ : BitVec 15
  primDz : BitVec 16
  clip : Rect
  scField : Bool
  scKeepOdd : Bool
  fbFormat : BitVec 3
  fbSize : PixSize
  fbWidth : BitVec 11
  fbAddress : BitVec 26
  tiFormat : BitVec 3
  tiSize : PixSize
  tiWidth : BitVec 11
  tiAddress : BitVec 26
  zbAddress : BitVec 26
  tile : Vector Tile 8
deriving DecidableEq, Repr

/-! ## The edge walker's output (R121, R122) -/

/-- One value for each attribute r, g, b, a, s, t, w, z (R608). -/
structure Attrs (α : Type) where
  r : α
  g : α
  b : α
  a : α
  s : α
  t : α
  w : α
  z : α
deriving DecidableEq, Repr

/-- One value for each of the four sub-rows of a scanline. -/
structure Quad (α : Type) where
  q0 : α
  q1 : α
  q2 : α
  q3 : α
deriving DecidableEq, Repr

/-- A span record (R121). `unscrx` and the start values are read signed. -/
structure Span where
  lx : BitVec 12
  rx : BitVec 12
  unscrx : BitVec 12
  validline : Bool
  start : Attrs (BitVec 32)
  majorx : Quad (BitVec 13)
  minorx : Quad (BitVec 13)
  invalyscan : Quad Bool
deriving DecidableEq, Repr

/-- What the edge walker writes and the renderers only read (R121, R122): the span buffer, a sparse list by scanline in
which an unlisted record is all 0, and the per-primitive values. -/
structure Walk where
  span : List (Nat × Span)
  spansD : Attrs (BitVec 32)
  spansDzpix : BitVec 16
  primTile : BitVec 3
  maxLevel : BitVec 3
  flip : Bool
deriving DecidableEq, Repr

/-! ## What a pixel's stages may write -/

/-- Host memory (R205, R207): bytes by address and 2-bit hidden fields by halfword index, sparse lists, and what the
unlisted ones hold. -/
structure HostMem where
  mem : List Host.Cell
  hid : List (Nat × BitVec 2)
  init : MemInit
deriving DecidableEq, Repr

/-- The crash conditions (R1101). -/
inductive CrashName where
  | fill4BitTarget | fillModeReadDepthBits | copy32BitTarget
deriving DecidableEq, Repr

/-- `S.warned` (R141): which crash conditions have been warned of. -/
structure Warned where
  fill4BitTarget : Bool
  fillModeReadDepthBits : Bool
  copy32BitTarget : Bool
deriving DecidableEq, Repr

/-- What the engine sends to the host (R1108, R430): the warnings of R1101 and the event SyncFull. -/
inductive Diag where
  | unassignedOpcode (op : BitVec 6)
  | crash (c : CrashName)
  | unknownTextureFormat
  | syncFull
deriving DecidableEq, Repr

/-- Everything the per-pixel stages may write: host memory, the coverage buffer (R123), the two gradient sets that R701
overwrites (R122), the inter-pixel carries (R125 to R129; `lodFracBit8` is the bit that R853 sets above R129's eight, log entry
6), the crash latch and the warned set (R140, R141), the sink, and
the count of free values taken (the model's own field, log entry 3). -/
structure Pixel where
  host : HostMem
  cvgbuf : List Host.Cell
  spansDy : Attrs (BitVec 32)
  spansCd : Attrs (BitVec 32)
  memoryColor : Rgba8
  preMemoryColor : Rgba8
  pastRawdzmem : BitVec 4
  nextTexel : Rgba (BitVec 9)
  noiseSeed : BitVec 32
  lodFrac : BitVec 8
  lodFracBit8 : Bool
  crashed : Bool
  warned : Warned
  diag : List Diag
  draws : Nat
deriving DecidableEq, Repr

/-! ## The state -/

/-- What the renderers read and never write. -/
structure Ctx where
  params : Params
  regs : Regs
  tmem : List Host.Cell
  walk : Walk
deriving DecidableEq, Repr

/-- The state: the context, what pixels write, and the command source: the host's word list (an input, R151) and the
cursor `S.cmd_index` (R103). -/
structure State extends Ctx where
  pixel : Pixel
  cmds : List Word64
  cmdIndex : Nat
deriving DecidableEq, Repr

/-- Why the machine stops without a next state. -/
inductive Fault where
  /-- `raise Unmodelled("texture load form")`: raised by LOAD_TILE, LOAD_BLOCK and LOAD_TLUT (R507). Safe. -/
  | textureLoadForm
  /-- `raise Unmodelled("4-bit colour image")`: raised by a 1- or 2-cycle pixel write under FB4_MODE = fault only
  (R716). Safe. -/
  | fourBitColourImage
  /-- `raise Unmodelled("copy size mismatch")`: raised by a copy-mode fetch under COPY_FETCH's default (R751). Safe. -/
  | copySizeMismatch
  /-- `raise Unmodelled("texel format")`: raised by a texel fetch under UNKNOWN_TEXEL = fault only (R823). Safe. -/
  | texelFormat
  /-- `raise OutOfRange(addr)`: raised by any host access under OOB_MODE = fault (R209). Safe. -/
  | outOfRange (addr : Nat)
  /-- The engine has no step (R1207): no word is left, or fewer than the next command needs. Raised by `step` alone;
  it is no error: the state stays and the host may supply words. Safe. -/
  | stuck
deriving DecidableEq, Repr

/-- Why an instruction is not run. -/
inductive Refusal where
  /-- The instruction has no meaning in this model; raised by `exec`'s arm alone (no arm of this model does). Safe. -/
  | notModelled (mnemonic : String)
deriving DecidableEq, Repr

/-- The result of a step or of a meaning. -/
abbrev Result := Host.Outcome State Fault Refusal

/-! ## Reset (R1203) -/

/-- The same value for every attribute. -/
def Attrs.const {α : Type} (v : α) : Attrs α := { r := v, g := v, b := v, a := v, s := v, t := v, w := v, z := v }

/-- The same value for every sub-row. -/
def Quad.const {α : Type} (v : α) : Quad α := { q0 := v, q1 := v, q2 := v, q3 := v }

/-- The same value for every channel. -/
def rgbaConst {α : Type} (v : α) : Rgba α := { r := v, g := v, b := v, a := v }

/-- The same value for every channel. -/
def rgbConst {α : Type} (v : α) : Rgb α := { r := v, g := v, b := v }

/-- R105's reset: every field 0. -/
def OtherModes.reset : OtherModes where
  atomicPrim := false
  cycleType := .oneCycle
  perspTexEn := false
  detailTexEn := false
  sharpenTexEn := false
  texLodEn := false
  enTlut := false
  tlutType := false
  sampleType := false
  midTexel := false
  biLerp0 := false
  biLerp1 := false
  convertOne := false
  keyEn := false
  rgbDitherSel := .magic
  alphaDitherSel := .pattern
  blend0 := { m1a := 0, m1b := 0, m2a := 0, m2b := 0 }
  blend1 := { m1a := 0, m1b := 0, m2a := 0, m2b := 0 }
  forceBlend := false
  alphaCvgSelect := false
  cvgTimesAlpha := false
  zMode := .opaqueZ
  cvgDest := .clamp
  colorOnCvg := false
  imageReadEn := false
  zUpdateEn := false
  zCompareEn := false
  antialiasEn := false
  zSourceSel := false
  ditherAlphaEn := false
  alphaCompareEn := false

/-- One cycle of R106's reset: every selector 0. -/
def combineZero : CombineCycle :=
  { subArgb := 0, subBrgb := 0, mulRgb := 0, addRgb := 0, subAa := 0, subBa := 0, mulA := 0, addA := 0 }

/-- R117's reset: every field of a tile 0. -/
def Tile.reset : Tile where
  format := 0
  size := .b4
  line := 0
  tmem := 0
  palette := 0
  ct := false
  mt := false
  maskT := 0
  shiftT := 0
  cs := false
  ms := false
  maskS := 0
  shiftS := 0
  sl := 0
  tl := 0
  sh := 0
  th := 0

/-- The pipeline registers after reset (R1203). -/
def Regs.reset : Regs where
  om := OtherModes.reset
  cc := { c0 := combineZero, c1 := combineZero }
  fogColor := rgbaConst 0
  blendColor := rgbaConst 0
  primColor := rgbaConst 0
  envColor := rgbaConst 0
  fillColor := 0
  primLodMin := 0
  primLodFrac := 0
  keyWidth := rgbConst 0
  keyCenter := rgbConst 0
  keyScale := rgbConst 0
  k0 := 0
  k1 := 0
  k2 := 0
  k3 := 0
  k4 := 0
  k5 := 0
  primZ := 0
  primDz := 0
  clip := { xh := 0, yh := 0, xl := 0, yl := 0 }
  scField := false
  scKeepOdd := false
  fbFormat := 0
  fbSize := .b4
  fbWidth := 1
  fbAddress := 0
  tiFormat := 0
  tiSize := .b4
  tiWidth := 1
  tiAddress := 0
  zbAddress := 0
  tile := Vector.replicate 8 Tile.reset

/-- The span record whose every field is 0, what an unlisted scanline holds (R121, R1203). -/
def Span.zero : Span where
  lx := 0
  rx := 0
  unscrx := 0
  validline := false
  start := Attrs.const 0
  majorx := Quad.const 0
  minorx := Quad.const 0
  invalyscan := Quad.const false

/-- The edge walker's values after reset (R1203). -/
def Walk.reset : Walk where
  span := []
  spansD := Attrs.const 0
  spansDzpix := 0
  primTile := 0
  maxLevel := 0
  flip := false

/-- The pixel part of the state after reset (R1203); host memory with nothing listed, its contents unconstrained
(R1205, log entry 2). -/
def Pixel.reset : Pixel where
  host := { mem := [], hid := [], init := .unconstrained }
  cvgbuf := []
  spansDy := Attrs.const 0
  spansCd := Attrs.const 0
  memoryColor := rgbaConst 0
  preMemoryColor := rgbaConst 0
  pastRawdzmem := 0
  nextTexel := rgbaConst 0
  noiseSeed := 0
  lodFrac := 0
  lodFracBit8 := false
  crashed := false
  warned := { fill4BitTarget := false, fillModeReadDepthBits := false, copy32BitTarget := false }
  diag := []
  draws := 0

/-- The machine right after reset (R1203), with no command supplied yet (log entry 4) and the default parameters. -/
def State.reset : State where
  params := Params.default
  regs := Regs.reset
  tmem := []
  walk := Walk.reset
  pixel := Pixel.reset
  cmds := []
  cmdIndex := 0

end Sys2Proof.Machine
end

