-- ==== Sys2Proof/Machine/Ops.lean ====
section
/-! DEFINITION. The shared operations: host memory (R205 to R209), hidden bits (R207), TMEM (R120), the span buffer (R121)
and coverage buffer (R123), the diagnostics sink (R1108), the free values and the noise source (R1044, R1202), and the one
error mechanism this engine has in place of an exception, the crash latch (R1105; R1120: there is no trap and no return). -/

namespace Sys2Proof.Machine

open Sys2Proof.Config

/-! ## State updates -/

/-- Replace the pipeline registers. -/
def State.setRegs (s : State) (r : Regs) : State := { s with regs := r }

/-- Replace TMEM. -/
def State.setTmem (s : State) (m : List Host.Cell) : State := { s with tmem := m }

/-- Replace the edge walker's values. -/
def State.setWalk (s : State) (w : Walk) : State := { s with walk := w }

/-- Replace the pixel part. -/
def State.setPixel (s : State) (p : Pixel) : State := { s with pixel := p }

/-- Move the command cursor. -/
def State.setCmdIndex (s : State) (n : Nat) : State := { s with cmdIndex := n }

/-- Replace the command sequence. -/
def State.setCmds (s : State) (ws : List Word64) : State := { s with cmds := ws }

/-- Tile descriptor `n` (R117). -/
def Regs.getTile (r : Regs) (n : BitVec 3) : Tile := r.tile[n.toNat]'n.isLt

/-- Replace tile descriptor `n` (R117). -/
def Regs.setTile (r : Regs) (n : BitVec 3) (t : Tile) : Regs := { r with tile := r.tile.set n.toNat t n.isLt }

/-- `S.tile[n].(sl, tl, sh, th) <- b` (R426, R500 to R502). -/
def Regs.setBounds (r : Regs) (n : BitVec 3) (b : TileBounds) : Regs :=
  r.setTile n { r.getTile n with toTileBounds := b }

/-! ## Memory (20_memory.md) -/

/-- What byte `a` of host memory reads as while it is not listed (R1205; R207's 0 where memory is initialized; log entry
2). -/
def Memory.unlisted (init : MemInit) (a : Nat) : Byte :=
  match init with
  | .unconstrained => freeByte a
  | .zeros => 0

/-- What hidden field `h` reads as while it is not listed (R1205, R207; log entry 2). -/
def Memory.unlistedHidden (init : MemInit) (h : Nat) : BitVec 2 :=
  match init with
  | .unconstrained => freeHidden h
  | .zeros => 0

/-- The value no listed entry holds because an unlisted one is known to: 0 where memory is initialized, else none. -/
def Memory.knownUnlisted (w : Nat) (init : MemInit) : Option (BitVec w) :=
  match init with
  | .unconstrained => none
  | .zeros => some 0

/-- What a listed TMEM or coverage byte never holds, because an unlisted one reads as it: the reset value 0 (R1203). -/
def byteZero : Byte := 0

/-- Host memory's canonical form: both lists canonical. -/
def Memory.wf (m : HostMem) : Bool :=
  sparseWf (Memory.knownUnlisted 8 m.init) m.mem && sparseWf (Memory.knownUnlisted 2 m.init) m.hid

/-- The byte at a (masked) address. -/
def HostMem.byte (m : HostMem) (a : Nat) : Byte := sparseGet (Memory.unlisted m.init a) m.mem a

/-- The hidden field of a halfword, by its index (R207). -/
def HostMem.hidden (m : HostMem) (h : Nat) : BitVec 2 := sparseGet (Memory.unlistedHidden m.init h) m.hid h

/-- Store one byte. -/
def HostMem.setByte (m : HostMem) (a : Nat) (v : Byte) : HostMem :=
  { m with mem := sparsePut (Memory.knownUnlisted 8 m.init) m.mem a v }

/-- Store one hidden field. -/
def HostMem.setHidden (m : HostMem) (h : Nat) (v : BitVec 2) : HostMem :=
  { m with hid := sparsePut (Memory.knownUnlisted 2 m.init) m.hid h v }

/-- `a & ADDR_MASK` (R202). -/
def maskAddr (P : Params) (a : Int) : Nat := iand a P.addrMask

/-- The first byte of the access `a .. a+n-1` that lies at or beyond RDRAM_SIZE, if one does (R209). -/
def outOfRange (P : Params) (a : Int) (n : Nat) : Option Nat :=
  ((List.range n).map (fun i => maskAddr P (a + i))).find? (fun x => decide (P.rdramSize ≤ x))

/-- The big-endian number of `n` bytes from `a` on (R205). -/
def readBytes (P : Params) (m : HostMem) (a : Int) (n : Nat) : Nat :=
  (List.range n).foldl (fun v (i : Nat) => v * 256 + (m.byte (maskAddr P (a + i))).toNat) 0

/-- Byte `i` of the `n`-byte big-endian form of `v` (R205). -/
def beByte (n v i : Nat) : Byte := BitVec.ofNat 8 (v >>> (8 * (n - 1 - i)))

/-- Store the `n` bytes of `v` from `a` on (R205). -/
def writeBytes (P : Params) (m : HostMem) (a : Int) (n v : Nat) : HostMem :=
  (List.range n).foldl (fun m (i : Nat) => m.setByte (maskAddr P (a + i)) (beByte n v i)) m

/-- `MemRead(a, n)` (R205, R209). -/
def memRead (P : Params) (m : HostMem) (a : Int) (n : Nat) : Except Fault Nat :=
  match outOfRange P a n with
  | none => .ok (readBytes P m a n)
  | some x =>
    match P.oobMode with
    | .fault => .error (.outOfRange x)
    | .ignore => .ok 0

/-- A write to bytes `a .. a+n-1` of `m` that leaves `m'` if they are in range (R209: else it faults, or is dropped with its
hidden bits). -/
def writeIf (P : Params) (m : HostMem) (a : Int) (n : Nat) (m' : HostMem) : Except Fault HostMem :=
  match outOfRange P a n with
  | none => .ok m'
  | some x =>
    match P.oobMode with
    | .fault => .error (.outOfRange x)
    | .ignore => .ok m

/-- `MemWrite(a, n, v)` (R205, R209). -/
def memWrite (P : Params) (m : HostMem) (a : Int) (n v : Nat) : Except Fault HostMem :=
  writeIf P m a n (writeBytes P m a n v)

/-- The key of the hidden field of halfword index `h`, its address reduced by ADDR_MASK (R202, R207). -/
def hidKey (P : Params) (h : Int) : Nat := maskAddr P (2 * h) / 2

/-- `HidRead(h)` (R207); beyond RDRAM_SIZE it reads 0, the paired read having faulted already under OOB_MODE = fault. The
address tested is that of the halfword's first byte: where an odd RDRAM_SIZE ends inside the halfword, the hidden field is the
stored one, although the paired read of both bytes is 0 under OOB_MODE = ignore (log entry 20, DESIGN CHOICE). -/
def hidRead (P : Params) (m : HostMem) (h : Int) : Nat :=
  if maskAddr P (2 * h) < P.rdramSize then (m.hidden (hidKey P h)).toNat else 0

/-- `HidWrite(h, v)` (R207); beyond RDRAM_SIZE it is dropped with its paired write (R209), by the test of `hidRead` (log entry
20). -/
def hidWrite (P : Params) (m : HostMem) (h : Int) (v : Nat) : HostMem :=
  if maskAddr P (2 * h) < P.rdramSize then m.setHidden (hidKey P h) (BitVec.ofNat 2 v) else m

/-- The hidden field that goes with a value written without coverage: 3 times its low bit (R712, R715, R741, R750). -/
def hidOfLowBit (v : Nat) : Nat := if v % 2 = 1 then 3 else 0

/-- Write a byte and, at an odd address, its halfword's hidden field (R715, R741, R750). -/
def writePair8 (P : Params) (m : HostMem) (a : Int) (v : Nat) : Except Fault HostMem :=
  writeIf P m a 1
    (if maskAddr P a % 2 = 1 then hidWrite P (writeBytes P m a 1 (v % 256)) (a >>> 1) (hidOfLowBit v)
      else writeBytes P m a 1 (v % 256))

/-- Write a halfword with its hidden field (R207, R208). -/
def writePair16 (P : Params) (m : HostMem) (a : Int) (v h : Nat) : Except Fault HostMem :=
  writeIf P m a 2 (hidWrite P (writeBytes P m a 2 v) (a >>> 1) h)

/-- Write a word with the hidden fields of its high and low halfwords (R208). -/
def writePair32 (P : Params) (m : HostMem) (a : Int) (v hHi hLo : Nat) : Except Fault HostMem :=
  writeIf P m a 4 (hidWrite P (hidWrite P (writeBytes P m a 4 v) (a >>> 1) hHi) ((a >>> 1) + 1) hLo)

/-- `base & ~1`, the base of a halfword access (R206). -/
def base16 (a : BitVec 26) : Nat := a.toNat / 2 * 2

/-- `base & ~3`, the base of a word access (R206). -/
def base32 (a : BitVec 26) : Nat := a.toNat / 4 * 4

/-! ## TMEM (R119, R120) -/

/-- `TmemRead8(a)`. -/
def tmemRead8 (m : List Host.Cell) (a : Nat) : Byte := sparseGet byteZero m (a &&& 0xfff)

/-- `S.tmem[a & 0xfff] <- v`. -/
def tmemWrite8 (m : List Host.Cell) (a : Nat) (v : Byte) : List Host.Cell := sparsePut (some byteZero) m (a &&& 0xfff) v

/-- `TmemRead16(h)`. -/
def tmemRead16 (m : List Host.Cell) (h : Nat) : Nat :=
  (sparseGet byteZero m ((2 * h) &&& 0xffe)).toNat * 256 + (sparseGet byteZero m ((2 * h + 1) &&& 0xfff)).toNat

/-- `TmemWrite16(h, v)`. -/
def tmemWrite16 (m : List Host.Cell) (h v : Nat) : List Host.Cell :=
  sparsePut (some byteZero) (sparsePut (some byteZero) m ((2 * h) &&& 0xffe) (BitVec.ofNat 8 (v / 256)))
    ((2 * h + 1) &&& 0xfff) (BitVec.ofNat 8 v)

/-! ## Span buffer and coverage buffer (R121, R123) -/

/-- `S.span[i]`; a scanline outside `0..MAX_SCANLINES-1` has no record and reads as all 0 (R624). -/
def spanAt (P : Params) (w : Walk) (i : Int) : Span :=
  if 0 ≤ i ∧ i < P.maxScanlines then sparseGet Span.zero w.span i.toNat else Span.zero

/-- Change the record of scanline `i`; there is none outside `0..MAX_SCANLINES-1` (R624). -/
def spanUpdate (P : Params) (sp : List (Nat × Span)) (i : Int) (f : Span → Span) : List (Nat × Span) :=
  if 0 ≤ i ∧ i < P.maxScanlines then sparsePut (some Span.zero) sp i.toNat (f (sparseGet Span.zero sp i.toNat)) else sp

/-- `S.cvgbuf[x]`, the index taken modulo 1024 (R1031). -/
def cvgAt (b : List Host.Cell) (x : Int) : Nat := (sparseGet byteZero b (iand x 0x3ff)).toNat

/-- `S.cvgbuf[x] <- v`, the index taken modulo 1024 (R1031). -/
def cvgPut (b : List Host.Cell) (x : Int) (v : Nat) : List Host.Cell :=
  sparsePut (some byteZero) b (iand x 0x3ff) (BitVec.ofNat 8 v)

/-- `S.cvgbuf[x] |= v` (R1031). -/
def cvgOr (b : List Host.Cell) (x : Int) (v : Nat) : List Host.Cell := cvgPut b x (cvgAt b x ||| v)

/-! ## Sub-rows -/

/-- Entry `r` of a four-entry array. -/
def Quad.get {α : Type} (q : Quad α) (r : Nat) : α :=
  match r with
  | 0 => q.q0
  | 1 => q.q1
  | 2 => q.q2
  | _ => q.q3

/-- Set entry `r` of a four-entry array. -/
def Quad.put {α : Type} (q : Quad α) (r : Nat) (v : α) : Quad α :=
  match r with
  | 0 => { q with q0 := v }
  | 1 => { q with q1 := v }
  | 2 => { q with q2 := v }
  | _ => { q with q3 := v }

/-- Apply a function to every attribute. -/
def Attrs.map {α β : Type} (f : α → β) (x : Attrs α) : Attrs β :=
  { r := f x.r, g := f x.g, b := f x.b, a := f x.a, s := f x.s, t := f x.t, w := f x.w, z := f x.z }

/-- Combine two values of every attribute. -/
def Attrs.zip {α β γ : Type} (f : α → β → γ) (x : Attrs α) (y : Attrs β) : Attrs γ :=
  { r := f x.r y.r, g := f x.g y.g, b := f x.b y.b, a := f x.a y.a,
    s := f x.s y.s, t := f x.t y.t, w := f x.w y.w, z := f x.z y.z }

/-! ## Diagnostics (R1108) -/

/-- The spec's name of a crash condition (R1101). -/
def CrashName.name : CrashName → String
  | .fill4BitTarget => "fill 4-bit target"
  | .fillModeReadDepthBits => "fill mode read/depth bits"
  | .copy32BitTarget => "copy 32-bit target"

/-- One upper-case hexadecimal digit. -/
def hexDigit (n : Nat) : Char := "0123456789ABCDEF".toList.getD n '?'

/-- The text of a diagnostic (R306, R435, R1105, R1109, R430; an opcode prints as in 95_test_vectors.md D-5). -/
def Diag.text : Diag → String
  | .unassignedOpcode op => "unassigned opcode 0x" ++ String.ofList [hexDigit (op.toNat / 16), hexDigit (op.toNat % 16)]
  | .crash c => "crash: " ++ c.name
  | .unknownTextureFormat => "unknown texture format"
  | .syncFull => "SyncFull"

/-- `warn(text)`, and the event `SyncFull`: append to the sink, in emission order (R1108). -/
def Pixel.emit (p : Pixel) (d : Diag) : Pixel := { p with diag := p.diag ++ [d] }

/-! ## The crash latch (R1105, R1107) -/

/-- `name in S.warned` (R141). -/
def Warned.has (w : Warned) (c : CrashName) : Bool :=
  match c with
  | .fill4BitTarget => w.fill4BitTarget
  | .fillModeReadDepthBits => w.fillModeReadDepthBits
  | .copy32BitTarget => w.copy32BitTarget

/-- `S.warned` with a name added (R141). -/
def Warned.add (w : Warned) (c : CrashName) : Warned :=
  match c with
  | .fill4BitTarget => { w with fill4BitTarget := true }
  | .fillModeReadDepthBits => { w with fillModeReadDepthBits := true }
  | .copy32BitTarget => { w with copy32BitTarget := true }

/-- `CrashLatch(name)` (R1105): warn once per name, then set the latch. -/
def crashLatch (c : CrashName) (p : Pixel) : Pixel :=
  if p.warned.has c then { p with crashed := true }
  else { p with diag := p.diag ++ [.crash c], warned := p.warned.add c, crashed := true }

/-- Set Color Image and Set Mask Image clear the latch when CRASH_CLEARED_BY_SET_IMAGE is true (R422, R424, R1107); the
warned set stays. -/
def clearCrash (P : Params) (p : Pixel) : Pixel :=
  { p with crashed := if P.crashClearedBySetImage then false else p.crashed }

/-! ## Free values and noise (R1202, R1044) -/

/-- The next free value (R1202, log entry 3). -/
def Pixel.draw (p : Pixel) : BitVec 64 × Pixel := (freeBits p.draws, { p with draws := p.draws + 1 })

/-- `Rand()` (R1044): a free 15-bit value, or the next value of the linear congruential generator. -/
def rand (P : Params) (p : Pixel) : Nat × Pixel :=
  match P.noise with
  | .draw => ((p.draw.1.setWidth 15).toNat, p.draw.2)
  | .lcg =>
    let seed : BitVec 32 := 214013 * p.noiseSeed + 2531011
    ((seed.toNat >>> 16) &&& 0x7fff, { p with noiseSeed := seed })

/-- One call of `Rand()` if it is wanted (R1044: "one call if ..., or none"); 0 stands for the value nothing reads. -/
def randIf (want : Bool) (P : Params) (p : Pixel) : Nat × Pixel := if want then rand P p else (0, p)

/-! ## Loops -/

/-- `for k in i .. i+n-1`, each round able to fault (R16, R1110). -/
def forE {σ : Type} (f : Nat → σ → Except Fault σ) : Nat → Nat → σ → Except Fault σ
  | _, 0, s => .ok s
  | i, n + 1, s =>
    match f i s with
    | .ok s' => forE f (i + 1) n s'
    | .error e => .error e

/-- `for k in i .. i+n-1`, without a fault. -/
def forP {σ : Type} (f : Nat → σ → σ) : Nat → Nat → σ → σ
  | _, 0, s => s
  | i, n + 1, s => forP f (i + 1) n (f i s)

/-- The outcome of a meaning whose operations end in `.ok s'` or in a fault. -/
def ofExcept (r : Except Fault State) : Result :=
  match r with
  | .ok s => .next s
  | .error f => .fault f

end Sys2Proof.Machine
end

