-- ==== Sys2Proof/Machine/Operands.lean ====
section
/-! DEFINITION. The operand forms: the edge walker's parameter block from a triangle's or a rectangle's fields (R608, R322,
R630 to R632), a tile's two axes with their derived values (R118), and pixel, depth and texel addresses (R710, R1009,
R504). -/

namespace Sys2Proof.Machine

/-! ## Primitives -/

/-- The parameter block of a primitive (R608): edges and, for each attribute, value and gradients. -/
structure EdgeParams where
  flip : Bool
  maxLevel : BitVec 3
  tile : BitVec 3
  yl : Int
  ym : Int
  yh : Int
  xl : Int
  xm : Int
  xh : Int
  dxldy : Int
  dxmdy : Int
  dxhdy : Int
  v : Attrs Int
  dx : Attrs Int
  de : Attrs Int
  dy : Attrs Int
deriving DecidableEq, Repr

/-- Shade coefficients of a triangle without the shade block (R322). -/
def noShade : ShadeCoeffs := { r := Coeff.zero, g := Coeff.zero, b := Coeff.zero, a := Coeff.zero }

/-- Texture coefficients of a triangle without the texture block (R322). -/
def noTex : TexCoeffs := { s := Coeff.zero, t := Coeff.zero, w := Coeff.zero }

/-- Depth coefficients of a triangle without the depth block (R322). -/
def noDepth : Coeff := Coeff.zero

/-- One field of every attribute's coefficients, read signed (R319 to R321). -/
def attrsOf (f : Coeff → BitVec 32) (c : ShadeCoeffs) (t : TexCoeffs) (z : Coeff) : Attrs Int :=
  { r := (f c.r).toInt, g := (f c.g).toInt, b := (f c.b).toInt, a := (f c.a).toInt,
    s := (f t.s).toInt, t := (f t.t).toInt, w := (f t.w).toInt, z := (f z).toInt }

/-- EdgeParams of a triangle (R608, R318 to R322). -/
def triParams (e : EdgeCoeffs) (c : ShadeCoeffs) (t : TexCoeffs) (z : Coeff) : EdgeParams where
  flip := e.flip
  maxLevel := e.maxLevel
  tile := e.tile
  yl := e.yl.toInt
  ym := e.ym.toInt
  yh := e.yh.toInt
  xl := e.xl.toInt
  xm := e.xm.toInt
  xh := e.xh.toInt
  dxldy := e.dxldy.toInt
  dxmdy := e.dxmdy.toInt
  dxhdy := e.dxhdy.toInt
  v := attrsOf Coeff.v c t z
  dx := attrsOf Coeff.dx c t z
  de := attrsOf Coeff.de c t z
  dy := attrsOf Coeff.dy c t z

/-- A u10.2 coordinate as s15.16 (R630). -/
def rectX (v : BitVec 12) : Int := (((v.toNat >>> 2) <<< 16 ||| (v.toNat &&& 3) <<< 14 : Nat) : Int)

/-- The lower edge of a rectangle: `yl | 3` in fill and copy mode (R630). -/
def rectYl (ct : CycleType) (yl : BitVec 12) : Nat :=
  match ct with
  | .fill => yl.toNat ||| 3
  | .copy => yl.toNat ||| 3
  | .oneCycle => yl.toNat
  | .twoCycle => yl.toNat

/-- The texture attributes of a rectangle: start values and the gradients of s and t (R630, R631). -/
structure RectAttrs where
  s : Int
  t : Int
  dsdx : Int
  dtdx : Int
  dsdy : Int
  dtdy : Int

/-- EdgeParams of a rectangle (R630): the major edge on the left, the gradients along it those per y. -/
def rectParams (ct : CycleType) (r : Rect) (tile : BitVec 3) (x : RectAttrs) : EdgeParams where
  flip := true
  maxLevel := 0
  tile := tile
  yl := rectYl ct r.yl
  ym := rectYl ct r.yl
  yh := r.yh.toNat
  xl := rectX r.xl
  xm := rectX r.xl
  xh := rectX r.xh
  dxldy := 0
  dxmdy := 0
  dxhdy := 0
  v := { Attrs.const 0 with s := x.s, t := x.t }
  dx := { Attrs.const 0 with s := x.dsdx, t := x.dtdx }
  de := { Attrs.const 0 with s := x.dsdy, t := x.dtdy }
  dy := { Attrs.const 0 with s := x.dsdy, t := x.dtdy }

/-- TEX_RECT (R630): s advances along x by dsdx, t along y by dtdy. -/
def texRectAttrs (x : RectTex) : RectAttrs where
  s := ishl x.s.toInt 16
  t := ishl x.t.toInt 16
  dsdx := ishl x.dsdx.toInt 11
  dtdx := 0
  dsdy := 0
  dtdy := ishl x.dtdy.toInt 11

/-- TEX_RECT_FLIP (R631): the texture axes exchanged. -/
def texRectFlipAttrs (x : RectTex) : RectAttrs where
  s := ishl x.s.toInt 16
  t := ishl x.t.toInt 16
  dsdx := 0
  dtdx := ishl x.dtdy.toInt 11
  dsdy := ishl x.dsdx.toInt 11
  dtdy := 0

/-- FILL_RECT (R632): every attribute and gradient 0. -/
def fillRectAttrs : RectAttrs := { s := 0, t := 0, dsdx := 0, dtdx := 0, dsdy := 0, dtdy := 0 }

/-! ## Tiles: one axis and its derived values (R117, R118) -/

/-- The fields of a tile that belong to one axis. -/
structure TileAxis where
  clamp : Bool
  mirror : Bool
  mask : Nat
  shift : Nat
  lo : Nat
  hi : Nat
deriving DecidableEq, Repr

/-- Axis s of a tile. -/
def Tile.axisS (t : Tile) : TileAxis :=
  { clamp := t.cs, mirror := t.ms, mask := t.maskS.toNat, shift := t.shiftS.toNat, lo := t.sl.toNat, hi := t.sh.toNat }

/-- Axis t of a tile: with `tl` and `th`. R118 says "t alike with ct, mask_t, sl, sh"; that its clamp difference is of the t
bounds is DEDUCED from R117, R811 and R812 (log entry 36). -/
def Tile.axisT (t : Tile) : TileAxis :=
  { clamp := t.ct, mirror := t.mt, mask := t.maskT.toNat, shift := t.shiftT.toNat, lo := t.tl.toNat, hi := t.th.toNat }

/-- `clampen` (R118). -/
def TileAxis.clampEn (x : TileAxis) : Bool := x.clamp || x.mask == 0

/-- `clampdiff` (R118). -/
def TileAxis.clampDiff (x : TileAxis) : Nat := iand ((x.hi >>> 2 : Nat) - (x.lo >>> 2 : Nat) : Int) 0x3ff

/-- `maskclamped` (R118). -/
def TileAxis.maskClamped (x : TileAxis) : Nat := min x.mask 10

/-- `maskbits` (R118). -/
def TileAxis.maskBits (x : TileAxis) : Nat := if x.mask == 0 then 0 else 1 <<< min x.mask 10 - 1

/-! ## Format codes (R116) -/

/-- RGBA. -/
def fmtRgba : BitVec 3 := 0
/-- YUV. -/
def fmtYuv : BitVec 3 := 1
/-- Colour index. -/
def fmtCi : BitVec 3 := 2
/-- Intensity with alpha. -/
def fmtIa : BitVec 3 := 3
/-- Intensity. -/
def fmtI : BitVec 3 := 4

/-! ## Addresses -/

/-- `FbIndex(x, y)` (R710). -/
def fbIndex (r : Regs) (x y : Int) : Int := (r.fbWidth.toNat : Int) * y + x

/-- The byte address of pixel index `n` of the colour image (R710, R206). -/
def fbPixelAddr (r : Regs) (n : Int) : Int :=
  match r.fbSize with
  | .b4 => r.fbAddress.toNat + n
  | .b8 => r.fbAddress.toNat + n
  | .b16 => base16 r.fbAddress + 2 * n
  | .b32 => base32 r.fbAddress + 4 * n

/-- The byte address of a depth entry by its halfword index (R1009, R1010). -/
def zbAddr (r : Regs) (n : Int) : Int := base16 r.zbAddress + 2 * n

/-- Host bytes of a texel (R504); a 4-bit texel has half a byte and no load (R507). -/
def texelBytes : PixSize → Nat
  | .b4 => 0
  | .b8 => 1
  | .b16 => 2
  | .b32 => 4

/-- The texture image's base, truncated to the access width (R206; log entry 7). -/
def texBase (r : Regs) : Nat :=
  match r.tiSize with
  | .b4 => r.tiAddress.toNat
  | .b8 => r.tiAddress.toNat
  | .b16 => base16 r.tiAddress
  | .b32 => base32 r.tiAddress

/-- `TexAddr(s, t)` (R504). -/
def texAddr (r : Regs) (s t : Nat) : Nat := texBase r + (t * r.tiWidth.toNat + s) * texelBytes r.tiSize

end Sys2Proof.Machine
end

