-- ==== Sys2Proof/Machine/Control.lean ====
section
/-! DEFINITION. The control-plane commands (40_control.md): modes, colours, key, convert, depth, scissor, images, tiles, syncs,
NOP and the unassigned opcodes. None touches host memory, none raises anything, none heeds the crash latch (R1106). -/

namespace Sys2Proof.Machine

open Sys2Proof.Config

/-- A command that writes pipeline registers only. -/
def writeRegs (f : Regs → Regs) (s : State) : Result := .next (s.setRegs (f s.regs))

/-- `w0[25:0] & ADDR_MASK` (R422 to R424). -/
def imageAddress (P : Params) (a : BitVec 26) : BitVec 26 := BitVec.ofNat 26 (maskAddr P a.toNat)

/-! ## Modes -/

/-- SET_OTHER_MODES (R410). -/
def execSetOtherModes (m : OtherModes) (s : State) : Result := writeRegs (fun r => { r with om := m }) s

/-- SET_COMBINE (R411). -/
def execSetCombine (m : CombineMode) (s : State) : Result := writeRegs (fun r => { r with cc := m }) s

/-! ## Colours, key, convert, depth -/

/-- SET_FOG_COLOR (R412). -/
def execSetFogColor (c : Rgba8) (s : State) : Result := writeRegs (fun r => { r with fogColor := c }) s

/-- SET_BLEND_COLOR (R413). -/
def execSetBlendColor (c : Rgba8) (s : State) : Result := writeRegs (fun r => { r with blendColor := c }) s

/-- SET_PRIM_COLOR (R414). -/
def execSetPrimColor (lodMin : BitVec 5) (lodFrac : BitVec 8) (c : Rgba8) (s : State) : Result :=
  writeRegs (fun r => { r with primLodMin := lodMin, primLodFrac := lodFrac, primColor := c }) s

/-- SET_ENV_COLOR (R415). -/
def execSetEnvColor (c : Rgba8) (s : State) : Result := writeRegs (fun r => { r with envColor := c }) s

/-- SET_FILL_COLOR (R416). -/
def execSetFillColor (c : BitVec 32) (s : State) : Result := writeRegs (fun r => { r with fillColor := c }) s

/-- SET_KEY_R (R417): the red parts alone. -/
def execSetKeyR (width : BitVec 12) (center scale : BitVec 8) (s : State) : Result :=
  writeRegs (fun r =>
    { r with keyWidth := { r.keyWidth with r := width },
             keyCenter := { r.keyCenter with r := center },
             keyScale := { r.keyScale with r := scale } }) s

/-- SET_KEY_GB (R418): the green and blue parts. -/
def execSetKeyGb (widthG widthB : BitVec 12) (centerG scaleG centerB scaleB : BitVec 8) (s : State) : Result :=
  writeRegs (fun r =>
    { r with keyWidth := { r.keyWidth with g := widthG, b := widthB },
             keyCenter := { r.keyCenter with g := centerG, b := centerB },
             keyScale := { r.keyScale with g := scaleG, b := scaleB } }) s

/-- SET_CONVERT (R419): nine raw bits each. -/
def execSetConvert (k0 k1 k2 k3 k4 k5 : BitVec 9) (s : State) : Result :=
  writeRegs (fun r => { r with k0 := k0, k1 := k1, k2 := k2, k3 := k3, k4 := k4, k5 := k5 }) s

/-- SET_PRIM_DEPTH (R420). -/
def execSetPrimDepth (z : BitVec 15) (dz : BitVec 16) (s : State) : Result :=
  writeRegs (fun r => { r with primZ := z, primDz := dz }) s

/-! ## Scissor and images -/

/-- SET_SCISSOR (R421). -/
def execSetScissor (clip : Rect) (field keepOdd : Bool) (s : State) : Result :=
  writeRegs (fun r => { r with clip := clip, scField := field, scKeepOdd := keepOdd }) s

/-- SET_COLOR_IMAGE (R422): the descriptor; the crash latch is cleared under CRASH_CLEARED_BY_SET_IMAGE. -/
def execSetColorImage (d : ImageDesc) (s : State) : Result :=
  .next ((s.setRegs { s.regs with fbFormat := d.format, fbSize := d.size, fbWidth := d.width,
                                  fbAddress := imageAddress s.params d.address }).setPixel (clearCrash s.params s.pixel))

/-- SET_TEXTURE_IMAGE (R423). -/
def execSetTextureImage (d : ImageDesc) (s : State) : Result :=
  writeRegs (fun r => { r with tiFormat := d.format, tiSize := d.size, tiWidth := d.width,
                               tiAddress := imageAddress s.params d.address }) s

/-- SET_MASK_IMAGE (R424): the depth image; the crash latch is cleared under CRASH_CLEARED_BY_SET_IMAGE. -/
def execSetMaskImage (address : BitVec 26) (s : State) : Result :=
  .next ((s.setRegs { s.regs with zbAddress := imageAddress s.params address }).setPixel (clearCrash s.params s.pixel))

/-! ## Tiles -/

/-- SET_TILE (R425): the bounds stay. -/
def execSetTile (tile : BitVec 3) (m : TileMode) (s : State) : Result :=
  writeRegs (fun r => r.setTile tile { r.getTile tile with toTileMode := m }) s

/-- SET_TILE_SIZE (R426): the bounds alone. -/
def execSetTileSize (tile : BitVec 3) (b : TileBounds) (s : State) : Result :=
  writeRegs (fun r => r.setBounds tile b) s

/-! ## Synchronisation and no-ops -/

/-- SYNC_FULL (R430): no state change but the event SyncFull to the host. -/
def execSyncFull (s : State) : Result := .next (s.setPixel (s.pixel.emit .syncFull))

/-- SYNC_PIPE (R431): nothing is left to wait for. -/
def execSyncPipe (s : State) : Result := .next s

/-- SYNC_TILE (R432): nothing is left to wait for. -/
def execSyncTile (s : State) : Result := .next s

/-- SYNC_LOAD (R433): nothing is left to wait for. -/
def execSyncLoad (s : State) : Result := .next s

/-- NOP (R434). -/
def execNop (s : State) : Result := .next s

/-- An unassigned opcode (R306, R435): a warning, on every occurrence (R1101), and nothing else. -/
def warnUnassigned (op : BitVec 6) (s : State) : Result := .next (s.setPixel (s.pixel.emit (.unassignedOpcode op)))

/-- Opcode 0x01 (R306, R435). -/
def execUnassigned01 (s : State) : Result := warnUnassigned 0x01 s

/-- Opcode 0x02 (R306, R435). -/
def execUnassigned02 (s : State) : Result := warnUnassigned 0x02 s

/-- Opcode 0x03 (R306, R435). -/
def execUnassigned03 (s : State) : Result := warnUnassigned 0x03 s

/-- Opcode 0x04 (R306, R435). -/
def execUnassigned04 (s : State) : Result := warnUnassigned 0x04 s

/-- Opcode 0x05 (R306, R435). -/
def execUnassigned05 (s : State) : Result := warnUnassigned 0x05 s

/-- Opcode 0x06 (R306, R435). -/
def execUnassigned06 (s : State) : Result := warnUnassigned 0x06 s

/-- Opcode 0x07 (R306, R435). -/
def execUnassigned07 (s : State) : Result := warnUnassigned 0x07 s

/-- Opcode 0x10 (R306, R435). -/
def execUnassigned10 (s : State) : Result := warnUnassigned 0x10 s

/-- Opcode 0x11 (R306, R435). -/
def execUnassigned11 (s : State) : Result := warnUnassigned 0x11 s

/-- Opcode 0x12 (R306, R435). -/
def execUnassigned12 (s : State) : Result := warnUnassigned 0x12 s

/-- Opcode 0x13 (R306, R435). -/
def execUnassigned13 (s : State) : Result := warnUnassigned 0x13 s

/-- Opcode 0x14 (R306, R435). -/
def execUnassigned14 (s : State) : Result := warnUnassigned 0x14 s

/-- Opcode 0x15 (R306, R435). -/
def execUnassigned15 (s : State) : Result := warnUnassigned 0x15 s

/-- Opcode 0x16 (R306, R435). -/
def execUnassigned16 (s : State) : Result := warnUnassigned 0x16 s

/-- Opcode 0x17 (R306, R435). -/
def execUnassigned17 (s : State) : Result := warnUnassigned 0x17 s

/-- Opcode 0x18 (R306, R435). -/
def execUnassigned18 (s : State) : Result := warnUnassigned 0x18 s

/-- Opcode 0x19 (R306, R435). -/
def execUnassigned19 (s : State) : Result := warnUnassigned 0x19 s

/-- Opcode 0x1A (R306, R435). -/
def execUnassigned1A (s : State) : Result := warnUnassigned 0x1A s

/-- Opcode 0x1B (R306, R435). -/
def execUnassigned1B (s : State) : Result := warnUnassigned 0x1B s

/-- Opcode 0x1C (R306, R435). -/
def execUnassigned1C (s : State) : Result := warnUnassigned 0x1C s

/-- Opcode 0x1D (R306, R435). -/
def execUnassigned1D (s : State) : Result := warnUnassigned 0x1D s

/-- Opcode 0x1E (R306, R435). -/
def execUnassigned1E (s : State) : Result := warnUnassigned 0x1E s

/-- Opcode 0x1F (R306, R435). -/
def execUnassigned1F (s : State) : Result := warnUnassigned 0x1F s

/-- Opcode 0x20 (R306, R435). -/
def execUnassigned20 (s : State) : Result := warnUnassigned 0x20 s

/-- Opcode 0x21 (R306, R435). -/
def execUnassigned21 (s : State) : Result := warnUnassigned 0x21 s

/-- Opcode 0x22 (R306, R435). -/
def execUnassigned22 (s : State) : Result := warnUnassigned 0x22 s

/-- Opcode 0x23 (R306, R435). -/
def execUnassigned23 (s : State) : Result := warnUnassigned 0x23 s

/-- Opcode 0x31 (R306, R435). -/
def execUnassigned31 (s : State) : Result := warnUnassigned 0x31 s

end Sys2Proof.Machine
end

