-- ==== Sys2Proof/Machine/Load.lean ====
section
/-! DEFINITION. The texture loads (41_texture_load.md): LOAD_TILE, LOAD_BLOCK, LOAD_TLUT. A load reads host memory and writes
TMEM and the target tile's bounds, nothing else; it runs while the crash latch is set (R1106). -/

namespace Sys2Proof.Machine

open Sys2Proof.Config

/-- The TMEM bytes a texel takes in its row: 8-bit 1, 16-bit 2, 32-bit 2 in each half (R505). -/
def tmemStride : PixSize → Nat
  | .b4 => 0
  | .b8 => 1
  | .b16 => 2
  | .b32 => 2

/-- The odd-row swizzle of a TMEM byte address (R503). -/
def swizzle (odd : Bool) (a : Nat) : Nat := if odd then a ^^^ 4 else a

/-- Copy one texel of the given size from host address `src` to TMEM byte `a` (R500, R505, R506). -/
def loadTexel (P : Params) (host : HostMem) (size : PixSize) (a : Nat) (src : Int) (m : List Host.Cell) :
    Except Fault (List Host.Cell) :=
  match size with
  | .b4 => .error .textureLoadForm
  | .b8 =>
    match memRead P host src 1 with
    | .ok v => .ok (tmemWrite8 m a (BitVec.ofNat 8 v))
    | .error e => .error e
  | .b16 =>
    match memRead P host src 2 with
    | .ok v => .ok (tmemWrite16 m ((a >>> 1) &&& 0x7ff) v)
    | .error e => .error e
  | .b32 =>
    match memRead P host src 4 with
    | .ok v =>
      .ok (tmemWrite16 (tmemWrite16 m ((a >>> 1) &&& 0x3ff) (v >>> 16)) (((a >>> 1) &&& 0x3ff) ||| 0x400) (v &&& 0xffff))
    | .error e => .error e

/-- The number of whole texels from u10.2 coordinate `lo` to `hi` inclusive: none if `hi >> 2` lies below `lo >> 2`. The
pseudocode of R500 and R502 counts so; R500's corner case "sh < sl loads nothing" would also shut out one texel whose fractional
bits alone are out of order (log entry 35, DEDUCED). -/
def texelCount (lo hi : BitVec 12) : Nat := hi.toNat / 4 + 1 - lo.toNat / 4

/-- The copy of LOAD_TILE (R500): rows `tl >> 2 .. th >> 2`, texels `sl >> 2 .. sh >> 2`. -/
def loadTileTexels (c : Ctx) (host : HostMem) (t : Tile) (b : TileBounds) (m : List Host.Cell) :
    Except Fault (List Host.Cell) :=
  forE (fun row m =>
    forE (fun i m =>
      loadTexel c.params host c.regs.tiSize
        (swizzle (row % 2 == 1) (8 * t.tmem.toNat + 8 * t.line.toNat * row + i * tmemStride c.regs.tiSize))
        (texAddr c.regs (b.sl.toNat / 4 + i) (b.tl.toNat / 4 + row)) m)
      0 (texelCount b.sl b.sh) m)
    0 (texelCount b.tl b.th) m

/-- The copy of LOAD_BLOCK (R501): texels `sl .. sh` as one run, each 64-bit word swizzled by its row counter. -/
def loadBlockTexels (c : Ctx) (host : HostMem) (t : Tile) (sl tl sh dxt : BitVec 12) (m : List Host.Cell) :
    Except Fault (List Host.Cell) :=
  forE (fun i m =>
    let off := i * tmemStride c.regs.tiSize
    let odd := ((off >>> 3) * dxt.toNat) >>> 11 % 2 == 1
    loadTexel c.params host c.regs.tiSize (swizzle odd (8 * t.tmem.toNat + off))
      (texAddr c.regs (sl.toNat + i) tl.toNat) m)
    0 (sh.toNat + 1 - sl.toNat) m

/-- Write one palette entry to four consecutive halfwords (R502). -/
def writeLanes (m : List Host.Cell) (h v : Nat) : List Host.Cell :=
  forP (fun k m => tmemWrite16 m ((h + k) &&& 0x7ff) v) 0 4 m

/-- The copy of LOAD_TLUT (R502): entries `sl >> 2 .. sh >> 2` of row `tl >> 2`. -/
def loadTlutEntries (c : Ctx) (host : HostMem) (t : Tile) (b : TileBounds) (m : List Host.Cell) :
    Except Fault (List Host.Cell) :=
  forE (fun i m =>
    match memRead c.params host (texAddr c.regs (b.sl.toNat / 4 + i) (b.tl.toNat / 4)) 2 with
    | .ok v => .ok (writeLanes m (4 * t.tmem.toNat + 4 * i) v)
    | .error e => .error e)
    0 (texelCount b.sl b.sh) m

/-- A load whose form no source specifies (R507): a 4-bit texture image, or a target tile of format YUV. -/
def loadFormBad (r : Regs) (n : BitVec 3) : Bool := r.tiSize == .b4 || (r.getTile n).format == fmtYuv

/-- A LOAD_TLUT whose form no source specifies (R507): as above, or a texture image not 16 bits (log entry 8). -/
def tlutFormBad (r : Regs) (n : BitVec 3) : Bool := r.tiSize != .b16 || loadFormBad r n

/-- A load: the tile's bounds are set, the form is checked, TMEM takes the copy (R500 to R502, R507). -/
def runLoad (s : State) (n : BitVec 3) (b : TileBounds) (bad : Bool)
    (copy : Tile → List Host.Cell → Except Fault (List Host.Cell)) : Result :=
  if bad then .fault .textureLoadForm
  else
    match copy (s.regs.getTile n) s.tmem with
    | .ok m => .next ((s.setRegs (s.regs.setBounds n b)).setTmem m)
    | .error e => .fault e

/-- LOAD_TILE (R500). -/
def execLoadTile (n : BitVec 3) (b : TileBounds) (s : State) : Result :=
  runLoad s n b (loadFormBad s.regs n) (fun t => loadTileTexels s.toCtx s.pixel.host t b)

/-- LOAD_BLOCK (R501): `th` takes dxt. -/
def execLoadBlock (n : BitVec 3) (sl tl sh dxt : BitVec 12) (s : State) : Result :=
  runLoad s n { sl := sl, tl := tl, sh := sh, th := dxt } (loadFormBad s.regs n)
    (fun t => loadBlockTexels s.toCtx s.pixel.host t sl tl sh dxt)

/-- LOAD_TLUT (R502). -/
def execLoadTlut (n : BitVec 3) (b : TileBounds) (s : State) : Result :=
  runLoad s n b (tlutFormBad s.regs n) (fun t => loadTlutEntries s.toCtx s.pixel.host t b)

end Sys2Proof.Machine
end

