-- ==== Sys2Proof/Machine/Flags.lean ====
section
/-! DEFINITION. The derived flags: pure functions of the registers (R150, R851, R925, R926). The engine has no condition
codes (R104); its flags proper are the crash latch and the warned set, in Ops. -/

namespace Sys2Proof.Machine

/-- Some input of a cycle's equations is the given colour: its number `n` in the sub and add slots and in `mul_rgb`,
or its alpha, number `n` in the alpha slots (1..5), and `n + 7` in `mul_rgb` (R902). -/
def cycleReads (k : CombineCycle) (n : Nat) : Bool :=
  k.subArgb.toNat == n || k.subBrgb.toNat == n || k.mulRgb.toNat == n || k.addRgb.toNat == n || k.mulRgb.toNat == n + 7 ||
    k.subAa.toNat == n || k.subBa.toNat == n || k.mulA.toNat == n || k.addA.toNat == n

/-- A cycle reads TEXEL0 or its alpha (R851, R902). -/
def readsTexel0 (k : CombineCycle) : Bool := cycleReads k 1

/-- A cycle reads TEXEL1 or its alpha (R851, R902). -/
def readsTexel1 (k : CombineCycle) : Bool := cycleReads k 2

/-- A cycle reads NOISE (R902, R905). -/
def readsNoise (k : CombineCycle) : Bool := k.subArgb.toNat == 7

/-- A cycle names LOD_FRAC (R851). -/
def readsLodFrac (k : CombineCycle) : Bool := k.mulRgb.toNat == 13 || k.mulA.toNat == 0

/-- `lodfracused` (R851), over the cycles in use: cycle 1 in 1-cycle mode (R910), both in 2-cycle mode, none in copy and
fill mode (log entry 14). -/
def lodFracUsed (r : Regs) : Bool :=
  match r.om.cycleType with
  | .oneCycle => readsLodFrac r.cc.c1
  | .twoCycle => readsLodFrac r.cc.c0 || readsLodFrac r.cc.c1
  | .copy => false
  | .fill => false

/-- `dolod` (R850). -/
def doLod (r : Regs) : Bool := r.om.texLodEn || lodFracUsed r

/-- The noise input is drawn, once per pixel, if a cycle in use reads it (R905, R1044). -/
def noiseUsed (r : Regs) : Bool :=
  match r.om.cycleType with
  | .oneCycle => readsNoise r.cc.c1
  | .twoCycle => readsNoise r.cc.c0 || readsNoise r.cc.c1
  | .copy => false
  | .fill => false

/-- The cycle-1 texel fetch T1 of 2-cycle mode is read: TEXEL1 of cycle 0 or TEXEL0 of cycle 1 (R910, R851). -/
def needT1 (r : Regs) : Bool := readsTexel1 r.cc.c0 || readsTexel0 r.cc.c1

/-- The cycle-0 texel fetch T0 of 2-cycle mode is read: TEXEL0 of cycle 0, or T1's input under convert_one (R830, R851;
log entry 11). -/
def needT0 (r : Regs) : Bool := readsTexel0 r.cc.c0 || (needT1 r && r.om.convertOne)

/-- The next pixel's texel is read in 2-cycle mode: TEXEL1 of cycle 1 (R910, R851). -/
def needNext (r : Regs) : Bool := readsTexel1 r.cc.c1

/-- A pixel is blended with its own inverse alpha (R925 for cycle 0, R926 for cycle 1). -/
def partialReject (b : BlendSel) : Bool := b.m2b == 0 && b.m1b == 0

end Sys2Proof.Machine
end

