-- ==== Sys2Proof/Machine/Combiner.lean ====
section
/-! DEFINITION. The colour combiner (45_combiner_blender.md sections 1 to 3): number domains (R900, R901), inputs (R902, R905),
equations (R903, R904), cycles (R910 to R913), chroma key (R911), alpha from coverage (R914). Channel values are 9-bit fields
held as numbers. -/

namespace Sys2Proof.Machine

open Sys2Proof.Config

/-! ## Number domains (R901) -/

/-- `Ext9(v)`. -/
def ext9 (v : Nat) : Int := if v &&& 0x180 = 0x180 then (v : Int) - 0x200 else v

/-- `Clamp9(v)`. -/
def clamp9 (v : Nat) : Nat := if v < 0x100 then v else if v < 0x180 then 0xff else 0

/-- `CEq(a, b, c, d)` (R903), 17 bits. -/
def ceq (a b c d : Nat) : Nat := iand ((ext9 a - ext9 b) * sext 9 c + ext9 d * 256 + 0x80) 0x1ffff

/-- `AEq(a, b, c, d)` (R904), 9 bits. -/
def aeq (a b c d : Nat) : Nat := iand (((ext9 a - ext9 b) * sext 9 c + ext9 d * 256 + 0x80) >>> 8) 0x1ff

/-! ## Inputs (R902) -/

/-- The colours and values a cycle can read, each channel a 9-bit field. -/
structure CombineInputs where
  combined : Rgba Nat
  texel0 : Rgba Nat
  texel1 : Rgba Nat
  prim : Rgba Nat
  shade : Rgba Nat
  env : Rgba Nat
  keyCenter : Rgb Nat
  keyScale : Rgb Nat
  noise : Nat
  lodFrac : Nat
  primLodFrac : Nat
  k4 : Nat
  k5 : Nat

/-- The colour channels. -/
inductive Chan where
  | r | g | b
deriving DecidableEq, Repr

/-- A channel of a four-channel colour. -/
def Chan.of {α : Type} (ch : Chan) (x : Rgba α) : α :=
  match ch with
  | .r => x.r
  | .g => x.g
  | .b => x.b

/-- A channel of a three-channel colour. -/
def Chan.of3 {α : Type} (ch : Chan) (x : Rgb α) : α :=
  match ch with
  | .r => x.r
  | .g => x.g
  | .b => x.b

/-- A three-channel colour by channel. -/
def rgbOf {α : Type} (f : Chan → α) : Rgb α := { r := f .r, g := f .g, b := f .b }

/-- The colours numbered 0 to 5 in every RGB slot (R902). -/
def inputColor (x : CombineInputs) (n : Nat) : Rgba Nat :=
  match n with
  | 0 => x.combined
  | 1 => x.texel0
  | 2 => x.texel1
  | 3 => x.prim
  | 4 => x.shade
  | _ => x.env

/-- ONE (R902). -/
def combineOne : Nat := 0x100

/-- `sub_a_rgb` (R902). -/
def subAInput (x : CombineInputs) (sel : BitVec 4) (ch : Chan) : Nat :=
  if sel.toNat ≤ 5 then ch.of (inputColor x sel.toNat)
  else if sel.toNat = 6 then combineOne
  else if sel.toNat = 7 then x.noise
  else 0

/-- `sub_b_rgb` (R902). K4 is read like every sub_b input, through Ext9 (R900, R903), so that 0x100..0x17F are positive, although
R110 and R419 call it signed (log entry 38, DEDUCED). -/
def subBInput (x : CombineInputs) (sel : BitVec 4) (ch : Chan) : Nat :=
  if sel.toNat ≤ 5 then ch.of (inputColor x sel.toNat)
  else if sel.toNat = 6 then ch.of3 x.keyCenter
  else if sel.toNat = 7 then x.k4
  else 0

/-- `mul_rgb` (R902). -/
def mulInput (x : CombineInputs) (sel : BitVec 5) (ch : Chan) : Nat :=
  if sel.toNat ≤ 5 then ch.of (inputColor x sel.toNat)
  else if sel.toNat = 6 then ch.of3 x.keyScale
  else if sel.toNat ≤ 12 then (inputColor x (sel.toNat - 7)).a
  else if sel.toNat = 13 then x.lodFrac
  else if sel.toNat = 14 then x.primLodFrac
  else if sel.toNat = 15 then x.k5
  else 0

/-- `add_rgb` (R902). -/
def addInput (x : CombineInputs) (sel : BitVec 3) (ch : Chan) : Nat :=
  if sel.toNat ≤ 5 then ch.of (inputColor x sel.toNat) else if sel.toNat = 6 then combineOne else 0

/-- `sub_a_a`, `sub_b_a`, `add_a` (R902). -/
def alphaInput (x : CombineInputs) (sel : BitVec 3) : Nat :=
  if sel.toNat ≤ 5 then (inputColor x sel.toNat).a else if sel.toNat = 6 then combineOne else 0

/-- `mul_a` (R902). -/
def mulAlphaInput (x : CombineInputs) (sel : BitVec 3) : Nat :=
  if sel.toNat = 0 then x.lodFrac
  else if sel.toNat ≤ 5 then (inputColor x sel.toNat).a
  else if sel.toNat = 6 then x.primLodFrac
  else 0

/-! ## One cycle -/

/-- The colour equation of a cycle, one channel (R903, R910). -/
def cycleColor (k : CombineCycle) (x : CombineInputs) (ch : Chan) : Nat :=
  ceq (subAInput x k.subArgb ch) (subBInput x k.subBrgb ch) (mulInput x k.mulRgb ch) (addInput x k.addRgb ch)

/-- The alpha equation of a cycle (R904, R910). -/
def cycleAlpha (k : CombineCycle) (x : CombineInputs) : Nat :=
  aeq (alphaInput x k.subAa) (alphaInput x k.subBa) (mulAlphaInput x k.mulA) (alphaInput x k.addA)

/-- The cycle-0 result as COMBINED, before any clamp (R910, R913). -/
def combinedOf (k : CombineCycle) (x : CombineInputs) : Rgba Nat :=
  { r := cycleColor k x .r >>> 8, g := cycleColor k x .g >>> 8, b := cycleColor k x .b >>> 8, a := cycleAlpha k x }

/-- The magnitude of a 17-bit result read signed (R911). -/
def keyDistance (k : Nat) : Int := (sext 17 k).natAbs

/-- `KEY_ALPHA(k_r, k_g, k_b)` (R911). -/
def keyAlpha (P : Params) (r : Regs) (k : Rgb Nat) : Nat :=
  match P.keyAlpha with
  | .standard =>
    let e := fun (w : BitVec 12) (k : Nat) => ishl w.toNat 4 - keyDistance k
    (clampInt (min (min (e r.keyWidth.r k.r) (e r.keyWidth.g k.g)) (e r.keyWidth.b k.b)) 0 0xff).toNat
  | .free =>
    (keyAlphaFree (BitVec.ofNat 17 k.r) (BitVec.ofNat 17 k.g) (BitVec.ofNat 17 k.b) r.keyWidth.r r.keyWidth.g
      r.keyWidth.b).toNat

/-- `AlphaCoverage(a, cvg, adith, keyalpha)` (R914): the coverage and the alpha. -/
def alphaCoverage (om : OtherModes) (a cvg adith key : Nat) : Nat × Nat :=
  let temp := (a * cvg + 4) >>> 3
  let cvg' := if om.cvgTimesAlpha then (temp >>> 5) &&& 0xf else cvg
  let a' :=
    if om.alphaCvgSelect then min (if om.cvgTimesAlpha then temp else cvg' <<< 5) 0xff
    else if om.keyEn then key
    else if (a + adith) &&& 0x100 ≠ 0 then 0xff else a + adith
  (cvg', a')

/-- The pixel colour of the final cycle (R911, R912): the clamped result, or under chroma key the clamped sub_a input. -/
def finalColor (om : OtherModes) (k : CombineCycle) (x : CombineInputs) (ch : Chan) : Nat :=
  if om.keyEn then clamp9 (subAInput x k.subArgb ch) else clamp9 (cycleColor k x ch >>> 8)

/-- The pixel alpha of the final cycle before coverage: 0xff becomes 0x100 (R912). -/
def finalAlpha (k : CombineCycle) (x : CombineInputs) : Nat :=
  let a := clamp9 (cycleAlpha k x)
  if a = 0xff then 0x100 else a

/-- A combined pixel: its colour, its coverage, and the alpha the alpha compare uses. -/
structure CombinedPixel where
  color : Rgba Nat
  cvg : Nat
  acalpha : Nat
deriving DecidableEq, Repr

/-- The body of the final cycle (R912): PIXEL and the updated coverage. -/
def combineFinal (c : Ctx) (k : CombineCycle) (x : CombineInputs) (adith cvg : Nat) : CombinedPixel :=
  let ac := alphaCoverage c.regs.om (finalAlpha k x) cvg adith
    (keyAlpha c.params c.regs (rgbOf (cycleColor k x)))
  { color := { r := finalColor c.regs.om k x .r, g := finalColor c.regs.om k x .g, b := finalColor c.regs.om k x .b,
               a := ac.2 },
    cvg := ac.1, acalpha := ac.2 }

/-- `Combine1Cycle(adith, cvg)` (R912): the cycle-1 selectors, with COMBINED = 0 in `x` (R910). -/
def combine1 (c : Ctx) (x : CombineInputs) (adith cvg : Nat) : CombinedPixel := combineFinal c c.regs.cc.c1 x adith cvg

/-- The inputs of cycle 1 of 2-cycle mode (R910): TEXEL0 = T1, TEXEL1 = NEXT, COMBINED = C0. -/
def secondInputs (x : CombineInputs) (c0 next : Rgba Nat) : CombineInputs :=
  { x with combined := c0, texel0 := x.texel1, texel1 := next }

/-- `Combine2Cycle(adith, cvg, T0, T1, NEXT)` (R913). -/
def combine2 (c : Ctx) (x : CombineInputs) (next : Rgba Nat) (adith cvg : Nat) : CombinedPixel :=
  let c0 := combinedOf c.regs.cc.c0 x
  let q := combineFinal c c.regs.cc.c1 (secondInputs x c0 next) adith cvg
  match c.params.acalpha2Cycle with
  | .standard => q
  | .free => { q with acalpha := (acalphaFree (BitVec.ofNat 9 c0.a) (BitVec.ofNat 9 q.color.a)).toNat }

/-- `ShadeAlphaDither(adith)` (R915), after the combiner (log entry 22). -/
def shadeAlphaDither (a adith : Nat) : Nat := if (a + adith) &&& 0x100 ≠ 0 then 0xff else a + adith

/-- The NOISE input from a draw (R905). -/
def noiseInput (R : Nat) : Nat := ((R % 8) <<< 6) ||| 0x20

/-- A colour register's channels as numbers. -/
def colorNat {n : Nat} (x : Rgba (BitVec n)) : Rgba Nat := { r := x.r.toNat, g := x.g.toNat, b := x.b.toNat, a := x.a.toNat }

/-- A texel as 9-bit fields (R821, log entry 9). -/
def texelFields (x : Rgba Int) : Rgba Nat := { r := iand x.r 0x1ff, g := iand x.g 0x1ff, b := iand x.b 0x1ff, a := iand x.a 0x1ff }

/-- The combiner inputs of a pixel (R902), COMBINED = 0 (R910). -/
def combineInputs (r : Regs) (lodFrac : BitVec 9) (t0 t1 : Rgba Int) (shade : Rgba Nat) (noise : Nat) : CombineInputs where
  combined := { r := 0, g := 0, b := 0, a := 0 }
  texel0 := texelFields t0
  texel1 := texelFields t1
  prim := colorNat r.primColor
  shade := shade
  env := colorNat r.envColor
  keyCenter := { r := r.keyCenter.r.toNat, g := r.keyCenter.g.toNat, b := r.keyCenter.b.toNat }
  keyScale := { r := r.keyScale.r.toNat, g := r.keyScale.g.toNat, b := r.keyScale.b.toNat }
  noise := noise
  lodFrac := lodFrac.toNat
  primLodFrac := r.primLodFrac.toNat
  k4 := r.k4.toNat
  k5 := r.k5.toNat

end Sys2Proof.Machine
end

