-- ==== Sys2Proof/Machine/Depth.lean ====
section
/-! DEFINITION. Depth (46_depth_coverage_dither.md sections 1 to 4): compression (R1001 to R1003), reads and writes of the
depth image (R1009 to R1011), the slope helpers (R1013 to R1015) and the compare (R1016). -/

namespace Sys2Proof.Machine

open Sys2Proof.Config

/-! ## Format -/

/-- `ZCompress(z)` for 18-bit z (R1001): the piecewise table on bits 17:11. -/
def zCompress (z : Nat) : Nat :=
  let t := (z >>> 11) &&& 0x7f
  if t ≤ 0x3f then (z >>> 4) &&& 0x1ffc
  else if t ≤ 0x5f then ((z >>> 3) &&& 0x1ffc) ||| 0x2000
  else if t ≤ 0x6f then ((z >>> 2) &&& 0x1ffc) ||| 0x4000
  else if t ≤ 0x77 then ((z >>> 1) &&& 0x1ffc) ||| 0x6000
  else if t ≤ 0x7b then (z &&& 0x1ffc) ||| 0x8000
  else if t ≤ 0x7d then ((z <<< 1) &&& 0x1ffc) ||| 0xa000
  else if t ≤ 0x7e then ((z <<< 2) &&& 0x1ffc) ||| 0xc000
  else ((z <<< 2) &&& 0x1ffc) ||| 0xe000

/-- The `shift` column of the exponent table (R1002). -/
def zShift (e : Nat) : Nat := 6 - min e 6

/-- The `add` column of the exponent table (R1002). -/
def zAdd (e : Nat) : Nat :=
  match e with
  | 0 => 0x00000
  | 1 => 0x20000
  | 2 => 0x30000
  | 3 => 0x38000
  | 4 => 0x3c000
  | 5 => 0x3e000
  | 6 => 0x3f000
  | _ => 0x3f800

/-- `ZDecompress(h)` (R1003). -/
def zDecompress (h : Nat) : Nat :=
  let e := (h >>> 13) &&& 7
  let m := (h >>> 2) &&& 0x7ff
  ((m <<< zShift e) + zAdd e) &&& 0x3ffff

/-! ## Depth image -/

/-- `ZRead(a)` (R1010): the halfword and its hidden bits. -/
def zRead (c : Ctx) (m : HostMem) (n : Int) : Except Fault (Nat × Nat) :=
  match memRead c.params m (zbAddr c.regs n) 2 with
  | .ok v => .ok (v, hidRead c.params m (zbAddr c.regs n >>> 1))
  | .error e => .error e

/-- `ZStore(a, z, dzenc)` (R1011). -/
def zStore (c : Ctx) (m : HostMem) (n : Int) (z dzenc : Nat) : Except Fault HostMem :=
  writePair16 c.params m (zbAddr c.regs n) (zCompress (z &&& 0x3ffff) ||| (dzenc >>> 2)) (dzenc &&& 3)

/-! ## Slope -/

/-- `NormalizeDzpix(sum)` (R1013). -/
def normalizeDzpix (sum : Nat) : Nat :=
  if sum &&& 0xc000 ≠ 0 then 0x8000
  else if sum = 0 then 1
  else 2 ^ (Nat.log2 sum + 1)

/-- `DzCompress(v)` (R1014). -/
def dzCompress (v : Nat) : Nat :=
  (if v &&& 0xff00 ≠ 0 then 8 else 0) ||| (if v &&& 0xf0f0 ≠ 0 then 4 else 0) |||
    (if v &&& 0xcccc ≠ 0 then 2 else 0) ||| (if v &&& 0xaaaa ≠ 0 then 1 else 0)

/-- `DzLut(i)` (R1015). -/
def dzLut (i : Nat) : Nat := if i = 0 then 0 else 2 ^ Nat.log2 i

/-! ## Compare -/

/-- The depth-slope shift amounts the blender reads (R1016). -/
structure BlendShifts where
  a : Nat
  b : Nat
  pastA : Nat
  pastB : Nat
deriving DecidableEq, Repr

/-- What a depth compare answers (R1016). -/
structure ZResult where
  pass : Bool
  blendEn : Bool
  prewrap : Bool
  cvg : Nat
  shifts : BlendShifts
deriving DecidableEq, Repr

/-- `Clip(x - y, 0, 4)` (R1016). -/
def clip4 (x y : Nat) : Nat := min (x - y) 4

/-- The compare with `z_compare_en` = 0 (R1016): every pixel passes. -/
def zPassAll (om : OtherModes) (dzpixenc cvg memcvg : Nat) : ZResult :=
  let overflow := (memcvg + cvg) &&& 8 ≠ 0
  let sb := if dzpixenc < 0xb then 4 else 0xf - dzpixenc
  { pass := true, blendEn := om.forceBlend || (!overflow && om.antialiasEn), prewrap := overflow, cvg := cvg,
    shifts := { a := 0, b := sb, pastA := 0, pastB := sb } }

/-- The stored slope as the compare uses it, and whether it forces coplanarity (R1016). -/
def storedSlope (zval rawdzmem : Nat) : Nat × Bool :=
  let pf := (zval >>> 13) &&& 0xf
  let dzmem := 2 ^ rawdzmem
  if pf < 3 then
    if dzmem ≠ 0x8000 then (max (2 * dzmem) (16 >>> pf), false) else (0xffff, true)
  else (dzmem, false)

/-- The compare with `z_compare_en` = 1, of the entry read (R1016). -/
def zTest (om : OtherModes) (past : BitVec 4) (zval hval sz dzpix dzpixenc cvg memcvg : Nat) : ZResult :=
  let overflow : Bool := (memcvg + cvg) &&& 8 ≠ 0
  let oz := zDecompress zval
  let rawdzmem := ((zval &&& 3) <<< 2) ||| hval
  let st := storedSlope zval rawdzmem
  let dznotshift := dzLut ((dzpix ||| st.1) &&& 0xffff)
  let dznew := dznotshift <<< 3
  let farther : Bool := st.2 || decide (oz ≤ sz + dznew)
  let nearer : Bool := st.2 || decide (sz ≤ oz + dznew)
  let infront : Bool := decide (sz < oz)
  let isMax : Bool := oz == 0x3ffff
  let opaquePass : Bool := isMax || (if overflow then infront else nearer)
  let dzenc := dzCompress dznotshift
  let meld : Bool := om.zMode == .interpenetrating && infront && farther && overflow
  { pass :=
      match om.zMode with
      | .opaqueZ => opaquePass
      | .interpenetrating => meld || opaquePass
      | .transparent => infront || isMax
      | .decal => farther && nearer && !isMax
    blendEn := om.forceBlend || (!overflow && om.antialiasEn && farther)
    prewrap := overflow
    cvg := if meld then ((iand ((oz >>> dzenc : Nat) - (sz >>> dzenc : Nat) : Int) 0xf * cvg) >>> 3) &&& 0xf else cvg
    shifts := { a := clip4 dzpixenc rawdzmem, b := clip4 rawdzmem dzpixenc,
                pastA := clip4 dzpixenc past.toNat, pastB := clip4 past.toNat dzpixenc } }

/-- `ZCompare(a, sz, dzpix, dzpixenc, cvg, memcvg)` (R1016): the entry is read and `S.past_rawdzmem` takes its slope code
only with the compare enabled. -/
def zCompare (c : Ctx) (p : Pixel) (n : Int) (sz dzpix dzpixenc cvg memcvg : Nat) : Except Fault (ZResult × Pixel) :=
  if c.regs.om.zCompareEn then
    match zRead c p.host n with
    | .ok (zval, hval) =>
      .ok (zTest c.regs.om p.pastRawdzmem zval hval (sz &&& 0x3ffff) dzpix dzpixenc cvg memcvg,
        { p with pastRawdzmem := BitVec.ofNat 4 (((zval &&& 3) <<< 2) ||| hval) })
    | .error e => .error e
  else .ok (zPassAll c.regs.om dzpixenc cvg memcvg, p)

end Sys2Proof.Machine
end

