-- ==== Sys2Proof/Machine/Dither.lean ====
section
/-! DEFINITION. Dither (46_depth_coverage_dither.md section 6): the two matrices (R1040, R1041), the choice of the values of a
pixel (R1042), and their use on the blended colour (R1043). -/

namespace Sys2Proof.Machine

open Sys2Proof.Config

/-- The magic-square matrix (R1040), row y = 0 first. -/
def magicMatrix : List Nat := [0, 6, 1, 7] ++ [4, 2, 5, 3] ++ [3, 5, 2, 4] ++ [7, 1, 6, 0]

/-- The Bayer matrix (R1041), row y = 0 first. -/
def bayerMatrix : List Nat := [0, 4, 1, 5] ++ [4, 0, 5, 1] ++ [3, 7, 2, 6] ++ [7, 3, 6, 2]

/-- `k` of R1042 for pixel (x, y). -/
def ditherIndex (x y : Int) : Nat := iand y 3 * 4 + iand x 3

/-- `MAGIC[k]`. -/
def magicAt (x y : Int) : Nat := magicMatrix.getD (ditherIndex x y) 0

/-- `BAYER[k]`. -/
def bayerAt (x y : Int) : Nat := bayerMatrix.getD (ditherIndex x y) 0

/-- A pixel takes one draw if either selector is 2 (R1042, R1044). -/
def ditherDraws (om : OtherModes) : Bool := om.rgbDitherSel == .noise || om.alphaDitherSel == .noise

/-- The pattern the alpha dither uses (R1042): `P`, and MAGIC and BAYER in the rows without an RGB pattern. -/
def alphaPattern (sel : RgbDitherSel) (x y : Int) : Nat :=
  match sel with
  | .magic => magicAt x y
  | .bayer => bayerAt x y
  | .noise => magicAt x y
  | .none => bayerAt x y

/-- `cdith` (R1042), `R` being the pixel's draw. -/
def colorDither (sel : RgbDitherSel) (x y : Int) (R : Nat) : Nat :=
  match sel with
  | .magic => magicAt x y
  | .bayer => bayerAt x y
  | .noise => R
  | .none => 7

/-- `adith` (R1042). -/
def alphaDither (rgb : RgbDitherSel) (alpha : AlphaDitherSel) (x y : Int) (R : Nat) : Nat :=
  match alpha with
  | .pattern => alphaPattern rgb x y
  | .inverted => 7 - alphaPattern rgb x y
  | .noise =>
    match rgb with
    | .noise => (R + 17) % 8
    | .magic => R % 8
    | .bayer => R % 8
    | .none => R % 8
  | .none => 0

/-- `DitherValues(x, y)` (R1042): `(cdith, adith)`. -/
def ditherValues (c : Ctx) (p : Pixel) (x y : Int) : (Nat × Nat) × Pixel :=
  let R := randIf (ditherDraws c.regs.om) c.params p
  ((colorDither c.regs.om.rgbDitherSel x y R.1,
    alphaDither c.regs.om.rgbDitherSel c.regs.om.alphaDitherSel x y R.1), R.2)

/-- One channel of RgbDither (R1043): round up to the next multiple of 8 if the low three bits exceed the threshold. -/
def ditherChannel (v th : Nat) : Nat :=
  if v % 8 > th then (if v > 247 then 255 else v / 8 * 8 + 8) else v

/-- `RgbDither(c, dith)` (R1043), and no dither with `rgb_dither_sel` = 3 (R925, R930). -/
def rgbDither (sel : RgbDitherSel) (c : Rgb Nat) (dith : Nat) : Rgb Nat :=
  match sel with
  | .none => c
  | .noise =>
    { r := ditherChannel c.r ((dith >>> 6) % 8), g := ditherChannel c.g ((dith >>> 3) % 8), b := ditherChannel c.b (dith % 8) }
  | .magic => { r := ditherChannel c.r dith, g := ditherChannel c.g dith, b := ditherChannel c.b dith }
  | .bayer => { r := ditherChannel c.r dith, g := ditherChannel c.g dith, b := ditherChannel c.b dith }

end Sys2Proof.Machine
end

