-- ==== Sys2Proof/Machine/Blender.lean ====
section
/-! DEFINITION. Alpha compare and blender (45_combiner_blender.md sections 4 to 6): R922 to R930 and the divide table R960. -/

namespace Sys2Proof.Machine

open Sys2Proof.Config

/-! ## The division table (R960) -/

/-- One round of the bit-serial division: `(ps, res)` for quotient bit `7 - k`. -/
def bldivRound (d n invd : Nat) (st : Nat × Nat) (k : Nat) : Nat × Nat :=
  let nbit := (n >>> (7 - k)) % 2
  let temp := if st.2 &&& (0x100 >>> k) ≠ 0 then invd + st.1 * 2 + nbit + 1 else d + st.1 * 2 + nbit
  (temp % 8, if temp &&& 0x10 ≠ 0 then st.2 ||| (1 <<< (7 - k)) else st.2)

/-- BLDIV_TABLE's default (R960), at index `i` of 0..0x7fff. -/
def bldivStd (i : Nat) : Nat :=
  let d := (i >>> 11) &&& 0xf
  let n := i &&& 0x7ff
  let invd := 15 - d
  ((List.range 8).foldl (bldivRound d n invd) ((invd + (n >>> 8) + 1) % 8, 0)).2

/-- `BLDIV[i]`, the index taken modulo 0x8000 (R960). -/
def bldiv (P : Params) (i : Nat) : Nat :=
  match P.bldivTable with
  | .standard => bldivStd (i % 0x8000)
  | .free => (bldivFree (BitVec.ofNat 15 i)).toNat

/-! ## Inputs (R923) -/

/-- The colours and alphas the blender reads. -/
structure BlendInputs where
  pixel : Rgba Nat
  memory : Rgba Nat
  blend : Rgba Nat
  fog : Rgba Nat
  shadeA : Nat

/-- The colour input of a slot (R923). -/
def blendColor (x : BlendInputs) (sel : BitVec 2) : Rgba Nat :=
  match sel.toNat with
  | 0 => x.pixel
  | 1 => x.memory
  | 2 => x.blend
  | _ => x.fog

/-- The `m1b` alpha (R923). -/
def blendAlpha1 (x : BlendInputs) (sel : BitVec 2) : Nat :=
  match sel.toNat with
  | 0 => x.pixel.a
  | 1 => x.fog.a
  | 2 => x.shadeA
  | _ => 0

/-- The `m2b` alpha (R923); INV is `~m1b_alpha & 0xff`. -/
def blendAlpha2 (x : BlendInputs) (b : BlendSel) : Nat :=
  match b.m2b.toNat with
  | 0 => 0xff - (blendAlpha1 x b.m1b) % 0x100
  | 1 => x.memory.a
  | 2 => 0xff
  | _ => 0

/-- The three colour channels of a four-channel colour. -/
def rgbPart {α : Type} (x : Rgba α) : Rgb α := { r := x.r, g := x.g, b := x.b }

/-- The two weights of a blend (R924). -/
def blendWeights (x : BlendInputs) (b : BlendSel) (sa sb : Nat) : Nat × Nat :=
  let b1 := blendAlpha1 x b.m1b >>> 3
  let b2 := blendAlpha2 x b >>> 3
  if b.m2b.toNat = 1 then ((b1 >>> sa) &&& 0x3c, (b2 >>> sb) ||| 3) else (b1, b2)

/-- One channel of BlendEq (R924), from the two colour inputs and the weights. -/
def blendChannel (P : Params) (divides : Bool) (w : Nat × Nat) (c1 c2 : Nat) : Nat :=
  let sum := c1 * w.1 + c2 * (w.2 + 1)
  if divides then bldiv P (((w.1 / 4 * 4 + w.2 / 4 * 4 + 4) <<< 9) ||| ((sum >>> 2) &&& 0x7ff))
  else (sum >>> 5) &&& 0xff

/-- `BlendEq(c, divide, sa, sb)` (R924). -/
def blendEq (c : Ctx) (x : BlendInputs) (b : BlendSel) (divide : Bool) (sa sb : Nat) : Rgb Nat :=
  let w := blendWeights x b sa sb
  let c1 := blendColor x b.m1a
  let c2 := blendColor x b.m2a
  rgbOf (fun ch => blendChannel c.params (divide && !c.regs.om.forceBlend) w (ch.of c1) (ch.of c2))

/-! ## Alpha compare (R922) -/

/-- `AlphaCompare(x)`; a random threshold is drawn only if the compare is enabled (log entry 13). -/
def alphaCompare (c : Ctx) (p : Pixel) (x : Nat) : Bool × Pixel :=
  if c.regs.om.alphaCompareEn then
    let R := randIf c.regs.om.ditherAlphaEn c.params p
    (decide ((if c.regs.om.ditherAlphaEn then R.1 % 0x100 else c.regs.blendColor.a.toNat) ≤ x), R.2)
  else (true, p)

/-- The coverage test of the blender (R925, R930). -/
def coverageTest (om : OtherModes) (cvg : Nat) (cvbit : Bool) : Bool := if om.antialiasEn then cvg != 0 else cvbit

/-! ## The two blenders -/

/-- What the depth stage hands to the blender. -/
structure BlendCtl where
  blendEn : Bool
  prewrap : Bool
  cvg : Nat
  cvbit : Bool
  shifts : BlendShifts

/-- The final blend cycle with its dither (R925, R930): unblended, blended, or the second colour without coverage
overflow. -/
def blendFinal (c : Ctx) (x : BlendInputs) (b : BlendSel) (k : BlendCtl) (pixelA dith : Nat) : Rgb Nat :=
  let v :=
    if c.regs.om.colorOnCvg && !k.prewrap then rgbPart (blendColor x b.m2a)
    else if !k.blendEn || (partialReject b && decide (pixelA ≥ 0xff)) then rgbPart (blendColor x b.m1a)
    else blendEq c x b true k.shifts.a k.shifts.b
  rgbDither c.regs.om.rgbDitherSel v dith

/-- The blender's inputs of a pixel (R923). -/
def blendInputs (c : Ctx) (pixel : Rgba Nat) (memory : Rgba8) (shadeA : Nat) : BlendInputs where
  pixel := pixel
  memory := colorNat memory
  blend := colorNat c.regs.blendColor
  fog := colorNat c.regs.fogColor
  shadeA := shadeA

/-- `Blend1Cycle` (R925): the colour to write, if one is. -/
def blend1 (c : Ctx) (p : Pixel) (q : CombinedPixel) (shadeA dith : Nat) (k : BlendCtl) : Option (Rgb Nat) × Pixel :=
  let t := alphaCompare c p q.color.a
  if t.1 && coverageTest c.regs.om k.cvg k.cvbit then
    (some (blendFinal c (blendInputs c q.color t.2.memoryColor shadeA) c.regs.om.blend0 k q.color.a dith), t.2)
  else (none, t.2)

/-- `S.memory_color <- S.pre_memory_color` (R707). -/
def takePreMemory (p : Pixel) : Pixel := { p with memoryColor := p.preMemoryColor }

/-- BLENDED (R930): the cycle-0 blend with the previous pixel's memory colour and shifts, shift-only. -/
def blendedColor (c : Ctx) (p : Pixel) (q : CombinedPixel) (shadeA : Nat) (k : BlendCtl) : Rgba Nat :=
  let v := blendEq c (blendInputs c q.color p.memoryColor shadeA) c.regs.om.blend0 false k.shifts.pastA k.shifts.pastB
  { r := v.r, g := v.g, b := v.b, a := q.color.a }

/-- `Blend2Cycle` (R930): the colour to write, if one is; the memory colour moves on every path. -/
def blend2 (c : Ctx) (p : Pixel) (q : CombinedPixel) (shadeA dith : Nat) (k : BlendCtl) : Option (Rgb Nat) × Pixel :=
  let t := alphaCompare c p q.acalpha
  if t.1 && coverageTest c.regs.om k.cvg k.cvbit then
    let blended := blendedColor c t.2 q shadeA k
    let p := takePreMemory t.2
    (some (blendFinal c (blendInputs c blended p.memoryColor shadeA) c.regs.om.blend1 k q.color.a dith), p)
  else (none, takePreMemory t.2)

end Sys2Proof.Machine
end

