-- ==== Sys2Proof/Machine/Coverage.lean ====
section
/-! DEFINITION. Coverage (46_depth_coverage_dither.md section 5): the per-scanline coverage buffer built from the span's
sub-row edges (R1030, R1031) and the decode of a coverage byte (R1032). -/

namespace Sys2Proof.Machine

open Sys2Proof.Config

/-- `fmask(r)` (R1030): the columns sub-row `r` samples; bit 3 is column 0. -/
def covMask (r : Nat) : Nat := 0xa >>> (r % 2)

/-- `maskshift(r)` (R1030). -/
def covShift (r : Nat) : Nat := if r < 2 then 4 else 0

/-- `n(x)` (R1031): sub-columns at or left of the edge, 0..4. The pseudocode is followed: at an odd eighth, where the edge runs
through the middle of a sub-column, it counts that sub-column as left of the edge, although the rule's prose has a sub-sample
exactly on a left edge covered and one exactly on a right edge not (log entry 37, DEDUCED). -/
def covEdge (x : Nat) : Nat := (x % 8 + 1) / 2

/-- `RightOf(x, f)` (R1031). -/
def rightOf (x f : Nat) : Nat := (0xf >>> covEdge x) &&& f

/-- `LeftOf(x, f)` (R1031). -/
def leftOf (x f : Nat) : Nat := ((0xf0 >>> covEdge x) &&& 0xf) &&& f

/-- One valid sub-row, between its left edge `l` and its right edge `r` in eighths (R1031, both halves of its case on
`flip`). -/
def covSubRow (l r f m : Nat) (b : List Host.Cell) : List Host.Cell :=
  let li := l / 8
  let ri := r / 8
  let b :=
    if ri = li then cvgOr b li ((rightOf l f &&& leftOf r f) <<< m)
    else cvgOr (cvgOr b li (rightOf l f <<< m)) ri (leftOf r f <<< m)
  forP (fun x b => cvgOr b x (f <<< m)) (li + 1) (ri - (li + 1)) b

/-- The left and the right of two edges: the major edge is on the left when `flip` is set (R619, R1031). -/
def leftRight {α : Type} (flip : Bool) (major minor : α) : α × α := if flip then (major, minor) else (minor, major)

/-- `BuildCvgbuf(i)` (R1031), of the span record. -/
def buildCvg (flip : Bool) (sp : Span) (b : List Host.Cell) : List Host.Cell :=
  let e := leftRight flip sp.rx.toNat sp.lx.toNat
  if e.2 < e.1 then b
  else
    let b := forP (fun x b => cvgPut b x 0) e.1 (e.2 + 1 - e.1) b
    forP (fun r b =>
      if sp.invalyscan.get r then b
      else
        let x := leftRight flip (sp.majorx.get r).toNat (sp.minorx.get r).toNat
        covSubRow x.1 x.2 (covMask r) (covShift r) b) 0 4 b

/-- A decoded coverage byte (R1032). -/
structure Cvg where
  offx : Nat
  offy : Nat
  count : Nat
  bit : Bool
deriving DecidableEq, Repr

/-- Row `r` of the 4x4 sub-sample mask of a coverage byte; bit 3 is column 0 (R1030, R1032's `Expand`). -/
def covRow (b r : Nat) : Nat :=
  match r with
  | 0 => bitNat (b.testBit 7) * 8 + bitNat (b.testBit 5) * 2
  | 1 => bitNat (b.testBit 6) * 4 + bitNat (b.testBit 4)
  | 2 => bitNat (b.testBit 3) * 8 + bitNat (b.testBit 1) * 2
  | _ => bitNat (b.testBit 2) * 4 + bitNat (b.testBit 0)

/-- The lowest sub-row with a sample; 0 if there is none (R1032). -/
def covOffY (b : Nat) : Nat :=
  if covRow b 0 ≠ 0 then 0
  else if covRow b 1 ≠ 0 then 1
  else if covRow b 2 ≠ 0 then 2
  else if covRow b 3 ≠ 0 then 3
  else 0

/-- The lowest column in a row's nibble; 0 if there is none (R1032). -/
def lowestColumn (row : Nat) : Nat :=
  if row.testBit 3 then 0
  else if row.testBit 2 then 1
  else if row.testBit 1 then 2
  else if row.testBit 0 then 3
  else 0

/-- `CvgLookup(b)` (R1032). Under CVARRAY = free the offsets and the coverage bit are free, the count stays the popcount
(log entry 16). -/
def cvgLookup (P : Params) (b : Nat) : Cvg :=
  match P.cvarray with
  | .standard => { offx := lowestColumn (covRow b (covOffY b)), offy := covOffY b, count := popcount 8 b, bit := b.testBit 7 }
  | .free =>
    let f := cvarrayFree (BitVec.ofNat 8 b)
    { offx := f.1.toNat, offy := f.2.1.toNat, count := popcount 8 b, bit := f.2.2 }

end Sys2Proof.Machine
end

