-- ==== Sys2Proof/Machine/Framebuffer.lean ====
section
/-! DEFINITION. Framebuffer access (43_span_renderers.md section 4): reads (R711 to R716), the coverage written (R714), writes
(R712 to R717). -/

namespace Sys2Proof.Machine

open Sys2Proof.Config

/-- A pixel as read: its colour and its memory coverage (R711). -/
structure FbPixel where
  color : Rgba8
  memcvg : Nat
deriving DecidableEq, Repr

/-- A colour of three bytes with an alpha. -/
def rgba8 (r g b a : Nat) : Rgba8 :=
  { r := BitVec.ofNat 8 r, g := BitVec.ofNat 8 g, b := BitVec.ofNat 8 b, a := BitVec.ofNat 8 a }

/-- A 32-bit pixel read (R712). -/
def unpack32 (imageRead : Bool) (v : Nat) : FbPixel :=
  { color := rgba8 (v >>> 24) (v >>> 16) (v >>> 8) (if imageRead then v &&& 0xe0 else 0xe0),
    memcvg := if imageRead then (v >>> 5) &&& 7 else 7 }

/-- The memory coverage of a 16-bit pixel (R713). -/
def memCvg16 (rgbaFmt : Bool) (w hb : Nat) : Nat := if rgbaFmt then ((w &&& 1) <<< 2) ||| hb else (w >>> 5) &&& 7

/-- A 16-bit pixel read (R713). -/
def unpack16 (rgbaFmt imageRead : Bool) (w hb : Nat) : FbPixel :=
  let cv := if imageRead then memCvg16 rgbaFmt w hb else 7
  { color :=
      if rgbaFmt then rgba8 ((w >>> 8) &&& 0xf8) ((w >>> 3) &&& 0xf8) ((w <<< 2) &&& 0xf8) (cv <<< 5)
      else rgba8 (w >>> 8) (w >>> 8) (w >>> 8) (cv <<< 5),
    memcvg := cv }

/-- An 8-bit pixel read (R715). -/
def unpack8 (v : Nat) : FbPixel := { color := rgba8 v v v 0xe0, memcvg := 7 }

/-- A 4-bit pixel read (R716): no memory access. -/
def unpack4 : FbPixel := { color := rgba8 0 0 0 0xe0, memcvg := 7 }

/-- `FbRead(n, dst)` (R711): the read is made whether or not image_read_en is set. -/
def fbRead (c : Ctx) (m : HostMem) (n : Int) : Except Fault FbPixel :=
  let a := fbPixelAddr c.regs n
  match c.regs.fbSize with
  | .b4 => .ok unpack4
  | .b8 =>
    match memRead c.params m a 1 with
    | .ok v => .ok (unpack8 v)
    | .error e => .error e
  | .b16 =>
    match memRead c.params m a 2 with
    | .ok v => .ok (unpack16 (c.regs.fbFormat == fmtRgba) c.regs.om.imageReadEn v (hidRead c.params m (a >>> 1)))
    | .error e => .error e
  | .b32 =>
    match memRead c.params m a 4 with
    | .ok v => .ok (unpack32 c.regs.om.imageReadEn v)
    | .error e => .error e

/-- `FinalizeCvg(blend_en, cvg, memcvg)` (R714). -/
def finalizeCvg (om : OtherModes) (blendEn : Bool) (cvg memcvg : Nat) : Nat :=
  match om.cvgDest with
  | .clamp =>
    if blendEn then (if (cvg + memcvg) &&& 8 ≠ 0 then 7 else (cvg + memcvg) &&& 7) else iand ((cvg : Int) - 1) 7
  | .wrap => (cvg + memcvg) &&& 7
  | .zap => 7
  | .save => memcvg

/-- A 16-bit pixel written (R713): the halfword and the hidden field. -/
def pack16 (rgbaFmt : Bool) (v : Rgb Nat) (fc : Nat) : Nat × Nat :=
  if rgbaFmt then ((((v.r >>> 3) <<< 11) ||| ((v.g >>> 3) <<< 6) ||| ((v.b >>> 3) <<< 1) ||| ((fc >>> 2) &&& 1)), fc &&& 3)
  else (((v.r <<< 8) ||| (fc <<< 5)) &&& 0xffff, 0)

/-- A 32-bit pixel written (R712). -/
def pack32 (v : Rgb Nat) (fc : Nat) : Nat := (v.r <<< 24) ||| (v.g <<< 16) ||| (v.b <<< 8) ||| (fc <<< 5)

/-- The write of a colour with its final coverage, by the image's size (R712, R713, R715, R716). -/
def fbStore (c : Ctx) (m : HostMem) (n : Int) (v : Rgb Nat) (fc : Nat) : Except Fault HostMem :=
  let a := fbPixelAddr c.regs n
  match c.regs.fbSize with
  | .b4 =>
    match c.params.fb4Mode with
    | .zeroByte => memWrite c.params m a 1 0
    | .fault => .error .fourBitColourImage
  | .b8 => writePair8 c.params m a v.r
  | .b16 =>
    let w := pack16 (c.regs.fbFormat == fmtRgba) v fc
    writePair16 c.params m a w.1 w.2
  | .b32 =>
    let w := pack32 v fc
    writePair32 c.params m a w (hidOfLowBit (w >>> 16)) (hidOfLowBit w)

/-- `FbWrite(n, c, blend_en, cvg, memcvg)` (R717). -/
def fbWrite (c : Ctx) (m : HostMem) (n : Int) (v : Rgb Nat) (blendEn : Bool) (cvg memcvg : Nat) : Except Fault HostMem :=
  fbStore c m n v (finalizeCvg c.regs.om blendEn cvg memcvg)

end Sys2Proof.Machine
end

