-- ==== Sys2Proof/Machine/Texture.lean ====
section
/-! DEFINITION. The texture pipeline (44_texture_pipeline.md): perspective (R801, R802), coordinates (R803, R810 to R815), texel
addresses and decodes (R820 to R826), sampling and filter (R830 to R840), level of detail (R850 to R854). Coordinates and
texel channels are integers (log entry 9). -/

namespace Sys2Proof.Machine

open Sys2Proof.Config

/-! ## Perspective (R801, R802) -/

/-- The integer halves of the accumulators (R800). -/
def coordOf (q : TexPoint) : Int × Int × Int := (q.s >>> 16, q.t >>> 16, q.w >>> 16)

/-- `k - 1` of R802: how far `i` is shifted until bit 15 would be set next, at most 14. -/
def tcShift (i : Nat) : Nat := ((List.range 14).find? (fun n => (i <<< (n + 1)).testBit 15)).getD 14

/-- `TcDiv(i)` (R802): `(shift, rcp)`; NORM_POINT and NORM_SLOPE are free (log entry 17). -/
def tcDiv (i : Nat) : Nat × Nat :=
  let shift := tcShift i
  let normout := (i <<< shift) &&& 0x3fff
  let wnorm := (normout &&& 0xff) <<< 2
  let n : BitVec 6 := BitVec.ofNat 6 (normout >>> 8)
  let slope : Int := ((normSlope n).toNat % 0x400 : Nat) - 0x400 + 1
  (shift, iand (((slope * wnorm) >>> 10) + (normPoint n).toNat) 0x7fff)

/-- One axis of the reference divide (R801); the out-of-range test reads the shifted product when `shift != 14`. -/
def perspAxis (v : Int) (shift rcp : Nat) (wCarry : Bool) : Nat :=
  let prod := sext 16 v * rcp
  let mask := iand (-((1 <<< 29 >>> shift : Nat) : Int)) (1 <<< 30 - 1)
  let oob := iand prod mask
  let shifted := if shift ≠ 14 then prod >>> (13 - shift) else prod
  let temp := if shift ≠ 14 then shifted else ishl prod 1
  let ou := if oob ≠ mask ∧ oob ≠ 0 then (if hasBits shifted (1 <<< 29) then 1 <<< 17 else 2 <<< 17) else 0
  iand temp 0x1ffff ||| ou ||| (if wCarry then 2 <<< 17 else 0)

/-- `Persp(ss, st, sw)` (R801): two 19-bit values. -/
def persp (c : Ctx) (q : TexPoint) : Nat × Nat :=
  let (ss, st, sw) := coordOf q
  if c.regs.om.perspTexEn then
    match c.params.perspDivide with
    | .standard =>
      let d := tcDiv (iand sw 0x7fff)
      let wCarry := decide (sext 16 sw ≤ 0)
      (perspAxis ss d.1 d.2 wCarry, perspAxis st d.1 d.2 wCarry)
    | .free =>
      let f := perspFree (BitVec.ofInt 16 ss) (BitVec.ofInt 16 st) (BitVec.ofInt 16 sw)
      (f.1.toNat, f.2.toNat)
  else (iand (sext 16 ss) 0x1ffff, iand (sext 16 st) 0x1ffff)

/-! ## Coordinates -/

/-- `LodClampCoord(c)` (R803). -/
def lodClampCoord (c : Nat) : Nat :=
  if c &&& 0x40000 ≠ 0 then 0x7fff
  else if c &&& 0x20000 ≠ 0 then 0x8000
  else if c &&& 0x18000 = 0x8000 then 0x7fff
  else if c &&& 0x18000 = 0x10000 then 0x8000
  else c &&& 0xffff

/-- The shift of one axis (R810). -/
def shiftCoord (x : TileAxis) (c : Nat) : Int :=
  if x.shift < 11 then sext 16 c >>> x.shift else sext 16 (((c <<< (16 - x.shift)) &&& 0xffff : Nat) : Int)

/-- `maxs` (R810): the shifted coordinate is at or beyond the tile's lower-right corner. -/
def beyondTile (x : TileAxis) (c : Int) : Bool := decide (c >>> 3 ≥ x.hi)

/-- A tile-relative coordinate (R811). -/
def tileRelative (x : TileAxis) (c : Int) : Int := c - ishl x.lo 3

/-- The integer coordinate and the fraction after the clamp (R812). -/
def clampCoord (x : TileAxis) (c : Int) (beyond : Bool) : Int × Nat :=
  if x.clampEn && hasBits c 0x10000 then (0, 0)
  else if x.clampEn && beyond then (x.clampDiff, 0)
  else (c >>> 5, iand c 0x1f)

/-- Wrap and mirror (R813). -/
def wrapCoord (x : TileAxis) (c : Int) : Int :=
  if x.mask ≠ 0 then
    iand (xorSign c (x.mirror && hasBits (c >>> x.maskClamped) 1)) x.maskBits
  else c

/-- Shift, tile offset and clamp of one axis (R810 to R812), from a coordinate after LodClampCoord. -/
def axisCoord (x : TileAxis) (c : Nat) : Int × Nat :=
  clampCoord x (tileRelative x (shiftCoord x c)) (beyondTile x (shiftCoord x c))

/-! ## Addresses (R820) -/

/-- The odd-row XOR of R820. -/
def oddRow (t : Int) (a x : Nat) : Nat := if hasBits t 1 then a ^^^ x else a

/-- `tbase` (R820), in 64-bit words. -/
def texelBase (tl : Tile) (t : Int) : Int := tl.line.toNat * (iand t 0xff : Int) + tl.tmem.toNat

/-- The TMEM byte of a 4-bit texel (R820). -/
def texelByte4 (tl : Tile) (s t : Int) : Nat := oddRow t (iand ((ishl (texelBase tl t) 4 + s) >>> 1) 0xfff) 4

/-- The TMEM byte of an 8-bit texel (R820). -/
def texelByte8 (tl : Tile) (s t : Int) : Nat := oddRow t (iand (ishl (texelBase tl t) 3 + s) 0xfff) 4

/-- The TMEM halfword of a 16-bit texel (R820). -/
def texelHalf16 (tl : Tile) (s t : Int) : Nat := oddRow t (iand (ishl (texelBase tl t) 2 + s) 0x7ff) 2

/-- The low-half TMEM halfword of a 32-bit texel (R820, R505). -/
def texelHalf32 (tl : Tile) (s t : Int) : Nat := oddRow t (iand (ishl (texelBase tl t) 2 + s) 0x3ff) 2

/-- The nibble of a 4-bit texel in its byte (R820). -/
def nibbleOf (s : Int) (b : Byte) : Nat := if hasBits s 1 then b.toNat % 16 else b.toNat / 16

/-! ## Texel decodes -/

/-- `x5to8(v)` (R822). -/
def x5to8 (v : Nat) : Nat := (v <<< 3) ||| (v >>> 2)

/-- Four equal channels. -/
def grey (v : Nat) : Rgba Int := { r := v, g := v, b := v, a := v }

/-- RGBA 16 (R822). -/
def rgba16 (c : Nat) : Rgba Int :=
  { r := x5to8 ((c >>> 11) &&& 0x1f), g := x5to8 ((c >>> 6) &&& 0x1f), b := x5to8 ((c >>> 1) &&& 0x1f),
    a := if c % 2 = 1 then 0xff else 0 }

/-- IA 16 (R822), and a palette entry of type IA 88 (R826). -/
def ia16 (c : Nat) : Rgba Int :=
  { r := (c >>> 8 : Nat), g := (c >>> 8 : Nat), b := (c >>> 8 : Nat), a := (c &&& 0xff : Nat) }

/-- RGBA 32 (R822). -/
def rgba32 (c d : Nat) : Rgba Int :=
  { r := (c >>> 8 : Nat), g := (c &&& 0xff : Nat), b := (d >>> 8 : Nat), a := (d &&& 0xff : Nat) }

/-- IA 4 (R822). -/
def ia4 (p : Nat) : Rgba Int :=
  let i := p &&& 0xe
  { grey ((i <<< 4) ||| (i <<< 1) ||| (i >>> 2)) with a := if p % 2 = 1 then 0xff else 0 }

/-- IA 8 (R822). -/
def ia8 (p : Nat) : Rgba Int :=
  { grey ((p &&& 0xf0) ||| (p >>> 4)) with a := (((p &&& 0xf) <<< 4 ||| (p &&& 0xf) : Nat) : Int) }

/-- YUV 16 (R822): u and v signed, Y in the other two channels. -/
def yuv16 (y uv : Nat) : Rgba Int :=
  { r := sext 8 (((uv >>> 8) ^^^ 0x80 : Nat) : Int), g := sext 8 (((uv &&& 0xff) ^^^ 0x80 : Nat) : Int), b := y, a := y }

/-- CI 16 and CI 32 under UNKNOWN_TEXEL = recalled (R823). -/
def ci16Recalled (c : Nat) : Rgba Int :=
  { r := (c >>> 8 : Nat), g := (c &&& 0xff : Nat), b := (c >>> 8 : Nat), a := if c % 2 = 1 then 0xff else 0 }

/-- A texel of the four bytes of a free value (R823, R1202). -/
def drawnTexel (v : BitVec 64) : Rgba Int :=
  { r := (v.extractLsb' 0 8).toNat, g := (v.extractLsb' 8 8).toNat, b := (v.extractLsb' 16 8).toNat,
    a := (v.extractLsb' 24 8).toNat }

/-- The decodes R822 gives, and R823's recalled ones; `none` for a pair without a decode. The Bool says that the decode is
one of R822's table. -/
def texelDecode (m : List Host.Cell) (tl : Tile) (s t : Int) : Option (Rgba Int × Bool) :=
  let nib := nibbleOf s (tmemRead8 m (texelByte4 tl s t))
  let byte := (tmemRead8 m (texelByte8 tl s t)).toNat
  let half := tmemRead16 m (texelHalf16 tl s t)
  let low := tmemRead16 m (texelHalf32 tl s t)
  match tl.format.toNat, tl.size with
  | 0, .b16 => some (rgba16 half, true)
  | 0, .b32 => some (rgba32 low (tmemRead16 m (texelHalf32 tl s t ||| 0x400)), true)
  | 1, .b16 =>
    some (yuv16 (tmemRead8 m ((texelByte8 tl s t &&& 0x7ff) ||| 0x800)).toNat
      (tmemRead16 m ((texelByte8 tl s t >>> 1) &&& 0x3ff)), true)
  | 2, .b4 => some (grey (tl.palette.toNat * 16 + nib), true)
  | 2, .b8 => some (grey byte, true)
  | 3, .b4 => some (ia4 nib, true)
  | 3, .b8 => some (ia8 byte, true)
  | 3, .b16 => some (ia16 half, true)
  | 4, .b4 => some (grey (nib * 16 + nib), true)
  | 4, .b8 => some (grey byte, true)
  | 0, .b4 => some (grey (nib * 16 + nib), false)
  | 0, .b8 => some (grey byte, false)
  | 2, .b16 => some (ci16Recalled half, false)
  | 2, .b32 => some (ci16Recalled low, false)
  | 3, .b32 => some (ia16 low, false)
  | 4, .b16 => some (ia16 low, false)
  | 4, .b32 => some (ia16 low, false)
  | _, _ => none

/-- A texel drawn free, with its warning (R823, R1109). -/
def drawTexel (p : Pixel) : Rgba Int × Pixel :=
  let p := p.emit .unknownTextureFormat
  (drawnTexel p.draw.1, p.draw.2)

/-- A texel of a pair without a decode in R822 (R823); `recalled` is R823's decode where it gives one (log entry 18). -/
def unknownTexel (P : Params) (p : Pixel) (recalled : Option (Rgba Int)) : Except Fault (Rgba Int × Pixel) :=
  match P.unknownTexel with
  | .draw => .ok (drawTexel p)
  | .fault => .error .texelFormat
  | .recalled =>
    match recalled with
    | some v => .ok (v, p.emit .unknownTextureFormat)
    | none => .ok (drawTexel p)

/-- The palette index of a texel (R826): the low half of TMEM only. -/
def paletteIndex (m : List Host.Cell) (tl : Tile) (s t : Int) : Nat :=
  match tl.size with
  | .b4 => tl.palette.toNat * 16 + nibbleOf s (tmemRead8 m (texelByte4 tl s t &&& 0x7ff))
  | .b8 => (tmemRead8 m (texelByte8 tl s t &&& 0x7ff)).toNat
  | .b16 => tmemRead16 m (texelHalf16 tl s t &&& 0x3ff) >>> 8
  | .b32 => tmemRead16 m (texelHalf32 tl s t &&& 0x3ff) >>> 8

/-- A palette entry (R508). -/
def paletteEntry (m : List Host.Cell) (idx lane : Nat) : Nat := tmemRead16 m (0x400 + 4 * idx + lane)

/-- Fetch and decode texel (s, t) as texel `lane` of a fetch (R822, R823, R826, R508). -/
def fetchTexel (c : Ctx) (p : Pixel) (tl : Tile) (s t : Int) (lane : Nat) : Except Fault (Rgba Int × Pixel) :=
  if c.regs.om.enTlut then
    let e := paletteEntry c.tmem (paletteIndex c.tmem tl s t) lane
    .ok (if c.regs.om.tlutType then ia16 e else rgba16 e, p)
  else
    match texelDecode c.tmem tl s t with
    | some (v, true) => .ok (v, p)
    | some (v, false) => unknownTexel c.params p (some v)
    | none => unknownTexel c.params p none

/-! ## Sampling and filter (R830 to R840) -/

/-- A function of every channel. -/
def rgbaMap {α β : Type} (f : α → β) (x : Rgba α) : Rgba β := { r := f x.r, g := f x.g, b := f x.b, a := f x.a }

/-- MID_TEXEL_FN (R832) of one channel. -/
def midTexel (P : Params) (t0 t1 t2 t3 : Int) : Int :=
  match P.midTexelFn with
  | .standard => (t0 + t1 + t2 + t3 + 2) >>> 2
  | .free => midTexelFree t0 t1 t2 t3

/-- The three-point interpolation of one channel (R831). -/
def lerpTexel (sf tf : Nat) (t0 t1 t2 t3 : Int) : Int :=
  if (sf + tf) &&& 0x20 ≠ 0 then t3 + (((0x20 - sf : Int) * (t2 - t3) + (0x20 - tf : Int) * (t1 - t3) + 0x10) >>> 5)
  else t0 + (((sf : Int) * (t1 - t0) + (tf : Int) * (t2 - t0) + 0x10) >>> 5)

/-- The convert branch of the filter (R831). -/
def lerpConvert (sf tf : Nat) (prev : Rgba Int) (t0 t1 t2 t3 : Int) : Int :=
  if (sf + tf) &&& 0x20 ≠ 0 then prev.b + ((prev.r * (t2 - t3) + prev.g * (t1 - t3) + 0x80) >>> 8)
  else prev.b + ((prev.r * (t1 - t0) + prev.g * (t2 - t0) + 0x80) >>> 8)

/-- `Filter` (R831) of one channel. -/
def filterChannel (c : Ctx) (convert : Bool) (prev : Rgba Int) (sf tf : Nat) (t0 t1 t2 t3 : Int) : Int :=
  if convert then lerpConvert sf tf prev t0 t1 t2 t3
  else if c.regs.om.midTexel && sf == 0x10 && tf == 0x10 then midTexel c.params t0 t1 t2 t3
  else lerpTexel sf tf t0 t1 t2 t3

/-- `Filter` (R831). -/
def filterTexel (c : Ctx) (convert : Bool) (prev : Rgba Int) (sf tf : Nat) (t0 t1 t2 t3 : Rgba Int) : Rgba Int :=
  { r := filterChannel c convert prev sf tf t0.r t1.r t2.r t3.r
    g := filterChannel c convert prev sf tf t0.g t1.g t2.g t3.g
    b := filterChannel c convert prev sf tf t0.b t1.b t2.b t3.b
    a := filterChannel c convert prev sf tf t0.a t1.a t2.a t3.a }

/-- `Convert(X)` (R840). -/
def convertTexel (r : Regs) (x : Rgba Int) : Rgba Int :=
  { r := iand (x.b + ((r.k0.toInt * x.g + 0x80) >>> 8)) 0x1ff
    g := iand (x.b + ((r.k1.toInt * x.r + r.k2.toInt * x.g + 0x80) >>> 8)) 0x1ff
    b := iand (x.b + ((r.k3.toInt * x.r + 0x80) >>> 8)) 0x1ff
    a := iand x.b 0x1ff }

/-- The four texels of a 2x2 fetch (R814), in lanes 0 to 3 (R508). Each texel is a fetch of its own for R1109's "once per
fetch": a sample of an unknown pair warns and draws four times (log entry 18, DEDUCED). -/
def fetchQuad (c : Ctx) (p : Pixel) (tl : Tile) (s0 s1 t0 t1 : Int) :
    Except Fault ((Rgba Int × Rgba Int × Rgba Int × Rgba Int) × Pixel) :=
  match fetchTexel c p tl s0 t0 0 with
  | .error e => .error e
  | .ok (q0, p) =>
    match fetchTexel c p tl s1 t0 1 with
    | .error e => .error e
    | .ok (q1, p) =>
      match fetchTexel c p tl s0 t1 2 with
      | .error e => .error e
      | .ok (q2, p) =>
        match fetchTexel c p tl s1 t1 3 with
        | .error e => .error e
        | .ok (q3, p) => .ok ((q0, q1, q2, q3), p)

/-- `Tex(sss, sst, n, cyc, prev)` (R830); `cycle1` is `cyc == 1`. -/
def tex (c : Ctx) (p : Pixel) (coord : Nat × Nat) (n : BitVec 3) (cycle1 : Bool) (prev : Rgba Int) :
    Except Fault (Rgba Int × Pixel) :=
  let tl := c.regs.getTile n
  let xs := tl.axisS
  let xt := tl.axisT
  let (s0, sf) := axisCoord xs (lodClampCoord coord.1)
  let (t0, tf) := axisCoord xt (lodClampCoord coord.2)
  let bilerp := if cycle1 then c.regs.om.biLerp1 else c.regs.om.biLerp0
  let convert := c.regs.om.convertOne && cycle1
  if c.regs.om.sampleType then
    let s1 := s0 + (if tl.format == fmtYuv then 2 else 1)
    match fetchQuad c p tl (wrapCoord xs s0) (wrapCoord xs s1) (wrapCoord xt t0) (wrapCoord xt (t0 + 1)) with
    | .error e => .error e
    | .ok ((q0, q1, q2, q3), p) =>
      .ok (if bilerp then filterTexel c convert prev sf tf q0 q1 q2 q3
        else convertTexel c.regs (if convert then prev else q0), p)
  else
    match fetchTexel c p tl (wrapCoord xs s0) (wrapCoord xt t0) 0 with
    | .error e => .error e
    | .ok (q0, p) =>
      .ok (if bilerp then (if convert then { r := prev.b, g := prev.b, b := prev.b, a := prev.b } else q0)
        else convertTexel c.regs (if convert then prev else q0), p)

/-! ## Level of detail (R850 to R854) -/

/-- The sum of two points. -/
def texAdd (x y : TexPoint) : TexPoint := { s := x.s + y.s, t := x.t + y.t, w := x.w + y.w }

/-- The gradient of s, t, w along y (R122). -/
def texDy (p : Pixel) : TexPoint := { s := p.spansDy.s.toInt, t := p.spansDy.t.toInt, w := p.spansDy.w.toInt }

/-- The start point of a scanline's span (R121). -/
def spanStart (sp : Span) : TexPoint := { s := sp.start.s.toInt, t := sp.start.t.toInt, w := sp.start.w.toInt }

/-- Where a pixel stands in its span: scanline, length, the increments of s, t, w. -/
structure LinePos where
  i : Int
  length : Int
  inc : TexPoint

/-- The next pixel's point (R704, R852): the next pixel, or the next scanline's start at the end of a span longer than 7. -/
def nextPixel (c : Ctx) (l : LinePos) (j : Int) (acc : TexPoint) : TexPoint :=
  if j = l.length ∧ l.length > 7 ∧ (spanAt c.params c.walk (l.i + 1)).validline = true
  then spanStart (spanAt c.params c.walk (l.i + 1))
  else texAdd acc l.inc

/-- The record of scanline `i`, as R852 reads it: absent outside `0..MAX_SCANLINES-1` (R624). -/
def spanRecord (c : Ctx) (i : Int) : Option (Bool × TexPoint) :=
  if 0 ≤ i ∧ i < c.params.maxScanlines then
    some ((spanAt c.params c.walk i).validline, spanStart (spanAt c.params c.walk i))
  else none

/-- `NextPoint(acc)` (R852). -/
def nextPoint (c : Ctx) (l : LinePos) (j : Int) (acc : TexPoint) : TexPoint :=
  match c.params.lodNextPoint with
  | .standard => nextPixel c l j acc
  | .free =>
    lodNextPointFree
      { cycleType := c.regs.om.cycleType, i := l.i, j := j, length := l.length, acc := acc, inc := l.inc,
        next := spanRecord c (l.i + 1) }

/-- The folded difference of two coordinates (R850). -/
def lodDelta (a b : Nat) : Nat :=
  let d := sext 17 b - sext 17 a
  if hasBits d 0x20000 then iand (inot d) 0x1ffff else d.toNat

/-- `Lod4x17` (R850). -/
def lod4x17 (sc sn tc tn prev : Nat) : Nat :=
  let d := max (max (lodDelta sc sn) (lodDelta tc tn)) prev
  if d &&& 0x1c000 ≠ 0 then (d &&& 0x7fff) ||| 0x4000 else d &&& 0x7fff

/-- What LodSignals answers (R853). -/
structure LodSignals where
  lTile : Nat
  magnify : Bool
  distant : Bool
  frac : Nat
deriving DecidableEq, Repr

/-- The two magnified cases of R853, at level `lev`. -/
def lodMagnified (r : Regs) (maxLevel : BitVec 3) (lev : Nat) : LodSignals :=
  let distant := maxLevel == 0
  { lTile := 0, magnify := true, distant := distant,
    frac := if r.om.sharpenTexEn || r.om.detailTexEn then (lev <<< 3) ||| (if r.om.sharpenTexEn then 0x100 else 0)
      else if distant then 0xff else 0 }

/-- `LodSignals(lodclamp, lod)` (R853). -/
def lodSignals (r : Regs) (maxLevel : BitVec 3) (lodclamp : Bool) (lod : Nat) : LodSignals :=
  if lod &&& 0x4000 ≠ 0 ∨ lodclamp = true then { lTile := 7, magnify := false, distant := true, frac := 0xff }
  else if lod < r.primLodMin.toNat then lodMagnified r maxLevel r.primLodMin.toNat
  else if lod < 32 then lodMagnified r maxLevel lod
  else
    let lt := Nat.log2 ((lod >>> 5) &&& 0xff)
    let distant := maxLevel == 0 || (lod &&& 0x6000) != 0 || decide (lt ≥ maxLevel.toNat)
    { lTile := lt, magnify := false, distant := distant,
      frac := if !(r.om.sharpenTexEn || r.om.detailTexEn) && distant then 0xff else ((lod <<< 3) >>> lt) &&& 0xff }

/-- A point lies out of the range the LOD can measure (R850). -/
def lodClamped (c : Nat × Nat) : Bool := c.1 &&& 0x60000 != 0 || c.2 &&& 0x60000 != 0

/-- The LOD of a pixel (R850): LodSignals of the two differences. -/
def lodOf (c : Ctx) (p : Pixel) (l : LinePos) (j : Int) (acc : TexPoint) : LodSignals :=
  let i := persp c acc
  let n := persp c (nextPoint c l j acc)
  let y := persp c (texAdd acc (texDy p))
  let lodclamp := lodClamped i || lodClamped n || lodClamped y
  let lod := if lodclamp then 0 else lod4x17 i.1 y.1 i.2 y.2 (lod4x17 i.1 n.1 i.2 n.2 0)
  lodSignals c.regs c.walk.maxLevel lodclamp lod

/-- `S.prim_tile + n`, modulo 8 (R850). -/
def tileOffset (c : Ctx) (n : Nat) : BitVec 3 := c.walk.primTile + BitVec.ofNat 3 n

/-- The tiles of a pixel from its LOD signals, with tex_lod_en (R850). -/
def lodTiles (c : Ctx) (g : LodSignals) : BitVec 3 × BitVec 3 :=
  let lt := if g.distant then c.walk.maxLevel.toNat else g.lTile
  if c.regs.om.detailTexEn then
    (tileOffset c (lt + if g.magnify then 0 else 1), tileOffset c (lt + if !g.distant && !g.magnify then 2 else 1))
  else
    (tileOffset c lt,
      if g.distant || (!c.regs.om.sharpenTexEn && g.magnify) then tileOffset c lt else tileOffset c (lt + 1))

/-- Tile selection (R850): `(tile1, tile2)`, without the write of lod_frac. -/
def tilesOf (c : Ctx) (p : Pixel) (l : LinePos) (j : Int) (acc : TexPoint) : BitVec 3 × BitVec 3 :=
  if c.regs.om.texLodEn then lodTiles c (lodOf c p l j acc) else (tileOffset c 0, tileOffset c 1)

/-- The write of `S.lod_frac` by a pixel that computes a LOD (R850): R129's eight bits, and beside them the bit 8 that R853
sets under sharpen (log entry 6). -/
def writeLodFrac (c : Ctx) (p : Pixel) (l : LinePos) (j : Int) (acc : TexPoint) : Pixel :=
  if doLod c.regs then
    let f := (lodOf c p l j acc).frac
    { p with lodFrac := BitVec.ofNat 8 f, lodFracBit8 := f.testBit 8 }
  else p

/-- The combiner input LOD_FRAC (R902), a 9-bit field. -/
def Pixel.lodFraction (p : Pixel) : BitVec 9 := BitVec.ofBool p.lodFracBit8 ++ p.lodFrac

end Sys2Proof.Machine
end

