-- ==== Sys2Proof/Machine/Render.lean ====
section
/-! DEFINITION. The 1-cycle and 2-cycle renderers (43_span_renderers.md sections 1 to 3): span set-up (R701), texels (R704), clip
correction (R705), the pixel of each renderer (R703, R706) in the stage order of R702. -/

namespace Sys2Proof.Machine

open Sys2Proof.Config

/-! ## Span set-up (R701) -/

/-- A gradient in the walking direction (R701). -/
def directed (flip : Bool) (v : BitVec 32) : Int := if flip then v.toInt else -v.toInt

/-- A scanline's set-up (R701). -/
structure Line where
  i : Int
  rx : Int
  xinc : Int
  length : Int
  dzpix : Nat
  inc : Attrs Int
  start : Attrs Int

/-- `length` (R701). -/
def lineLength (flip : Bool) (sp : Span) : Int :=
  if flip then (sp.lx.toNat : Int) - sp.rx.toNat else (sp.rx.toNat : Int) - sp.lx.toNat

/-- `scdiff` (R701): how far the first drawn pixel lies from the unscissored major edge. -/
def scDiff (flip : Bool) (sp : Span) : Nat :=
  iand (if flip then (sp.rx.toNat : Int) - sp.unscrx.toInt else sp.unscrx.toInt - sp.rx.toNat) 0xfff

/-- The start values of the accumulators before the scissor adjustment (R701, R1012). -/
def lineStart (c : Ctx) (sp : Span) : Attrs Int :=
  let a := sp.start.map BitVec.toInt
  if c.regs.om.zSourceSel then { a with z := ishl c.regs.primZ.toNat 16 } else a

/-- The increments per pixel (R701): z does not change under z_source_sel. -/
def lineInc (c : Ctx) : Attrs Int :=
  let a := c.walk.spansD.map (directed c.walk.flip)
  if c.regs.om.zSourceSel then { a with z := 0 } else a

/-- The set-up of scanline `i` (R701). -/
def lineSetup (c : Ctx) (i : Int) : Line :=
  let sp := spanAt c.params c.walk i
  let inc := lineInc c
  { i := i, rx := sp.rx.toNat, xinc := if c.walk.flip then 1 else -1, length := lineLength c.walk.flip sp,
    dzpix := if c.regs.om.zSourceSel then c.regs.primDz.toNat else c.walk.spansDzpix.toNat,
    inc := inc,
    start := Attrs.zip (fun v d => v + d * scDiff c.walk.flip sp) (lineStart c sp) inc }

/-- What the set-up writes (R701): the depth gradients under z_source_sel, and the coverage buffer (R1031). -/
def lineWrites (c : Ctx) (i : Int) (p : Pixel) : Pixel :=
  let p :=
    if c.regs.om.zSourceSel then
      { p with spansCd := { p.spansCd with z := 0 }, spansDy := { p.spansDy with z := 0 } }
    else p
  { p with cvgbuf := buildCvg c.walk.flip (spanAt c.params c.walk i) p.cvgbuf }

/-- The accumulators at pixel `j` (R701). -/
def Line.acc (l : Line) (j : Int) : Attrs Int := Attrs.zip (fun v d => v + d * j) l.start l.inc

/-- The s, t, w of a set of attributes. -/
def texPart (a : Attrs Int) : TexPoint := { s := a.s, t := a.t, w := a.w }

/-- A pixel's place in its span, as the LOD and the next texel see it. -/
def Line.pos (l : Line) : LinePos := { i := l.i, length := l.length, inc := texPart l.inc }

/-! ## Clip correction (R705) -/

/-- A colour channel of SHADE (R705). -/
def shadeChannel (k : Cvg) (v : Int) (cd dy : BitVec 32) : Nat :=
  let s := v >>> 14
  let x := if k.count = 8 then s >>> 2 else (ishl s 2 + k.offx * cd.toInt + k.offy * dy.toInt) >>> 4
  clamp9 (iand x 0x1ff)

/-- SHADE (R705). -/
def shadeOf (p : Pixel) (k : Cvg) (a : Attrs Int) : Rgba Nat :=
  { r := shadeChannel k a.r p.spansCd.r p.spansDy.r, g := shadeChannel k a.g p.spansCd.g p.spansDy.g,
    b := shadeChannel k a.b p.spansCd.b p.spansDy.b, a := shadeChannel k a.a p.spansCd.a p.spansDy.a }

/-- The clip-corrected depth (R703, R705), 18 bits. -/
def depthOf (p : Pixel) (k : Cvg) (a : Attrs Int) : Nat :=
  let sz : Int := iand (a.z >>> 10) 0x3fffff
  let z := if k.count = 8 then sz >>> 3 else (ishl sz 2 + k.offx * p.spansCd.z.toInt + k.offy * p.spansDy.z.toInt) >>> 5
  match iand z 0x60000 >>> 17 with
  | 2 => 0x3ffff
  | 3 => 0
  | _ => iand z 0x3ffff

/-! ## Texels (R704, R706) -/

/-- The texel nothing reads (R851). -/
def noTexel : Rgba Int := { r := 0, g := 0, b := 0, a := 0 }

/-- A texture fetch, skipped when no combiner input reads it (R851). -/
def texIf (want : Bool) (c : Ctx) (p : Pixel) (q : TexPoint) (n : BitVec 3) (cycle1 : Bool) (prev : Rgba Int) :
    Except Fault (Rgba Int × Pixel) :=
  if want then tex c p (persp c q) n cycle1 prev else .ok (noTexel, p)

/-- `Texels1Cycle(i, j)` (R704): the pixel's own texel and the next pixel's; the LOD of this pixel is written (R850), the
next one's only selects its tile (log entry 12). -/
def texels1 (c : Ctx) (p : Pixel) (l : LinePos) (j : Int) (acc : TexPoint) :
    Except Fault ((Rgba Int × Rgba Int) × Pixel) :=
  let next := nextPixel c l j acc
  match texIf (readsTexel0 c.regs.cc.c1) c (writeLodFrac c p l j acc) acc (tilesOf c p l j acc).1 false noTexel with
  | .error e => .error e
  | .ok (t0, p) =>
    match texIf (readsTexel1 c.regs.cc.c1) c p next (tilesOf c p l (j + 1) next).1 false noTexel with
    | .error e => .error e
    | .ok (t1, p) => .ok ((t0, t1), p)

/-- The texels of a 2-cycle pixel. -/
structure Texels2 where
  t0 : Rgba Int
  t1 : Rgba Int
  next : Rgba Int

/-- `S.next_texel <- NEXT` when it is fetched (R127, log entry 30). -/
def keepNext (c : Ctx) (v : Rgba Int) (p : Pixel) : Pixel :=
  if needNext c.regs then
    { p with nextTexel := { r := BitVec.ofInt 9 v.r, g := BitVec.ofInt 9 v.g, b := BitVec.ofInt 9 v.b, a := BitVec.ofInt 9 v.a } }
  else p

/-- T0, T1 and NEXT (R706). -/
def texels2 (c : Ctx) (p : Pixel) (l : LinePos) (j : Int) (acc : TexPoint) : Except Fault (Texels2 × Pixel) :=
  let tiles := tilesOf c p l j acc
  let next := texAdd acc l.inc
  match texIf (needT0 c.regs) c (writeLodFrac c p l j acc) acc tiles.1 false noTexel with
  | .error e => .error e
  | .ok (t0, p) =>
    match texIf (needT1 c.regs) c p acc tiles.2 true t0 with
    | .error e => .error e
    | .ok (t1, p) =>
      match texIf (needNext c.regs) c p next (tilesOf c p l (j + 1) next).1 false noTexel with
      | .error e => .error e
      | .ok (nx, p) => .ok ({ t0 := t0, t1 := t1, next := nx }, keepNext c nx p)

/-! ## The stages after the combiner -/

/-- What the earlier stages hand to the memory, depth and blend stages. -/
structure Fragment where
  x : Int
  y : Int
  sz : Nat
  dzpix : Nat
  cvbit : Bool
  q : CombinedPixel
  shadeA : Nat
  cdith : Nat

/-- Stages 9 and 10 (R703, R706): the colour write and the conditional depth write. -/
def writePixel (c : Ctx) (p : Pixel) (f : Fragment) (z : ZResult) (memcvg : Nat) (v : Option (Rgb Nat)) :
    Except Fault Pixel :=
  match v with
  | none => .ok p
  | some col =>
    match fbWrite c p.host (fbIndex c.regs f.x f.y) col z.blendEn z.cvg memcvg with
    | .error e => .error e
    | .ok m =>
      if c.regs.om.zUpdateEn then
        match zStore c m (fbIndex c.regs f.x f.y) f.sz (dzCompress f.dzpix) with
        | .error e => .error e
        | .ok m => .ok { p with host := m }
      else .ok { p with host := m }

/-- The blender's control of a fragment. -/
def blendCtl (f : Fragment) (z : ZResult) : BlendCtl :=
  { blendEn := z.blendEn, prewrap := z.prewrap, cvg := z.cvg, cvbit := f.cvbit, shifts := z.shifts }

/-- Stages 6 to 10 of a 1-cycle pixel (R703, R708). -/
def finish1 (c : Ctx) (p : Pixel) (f : Fragment) : Except Fault Pixel :=
  match fbRead c p.host (fbIndex c.regs f.x f.y) with
  | .error e => .error e
  | .ok fb =>
    match zCompare c { p with memoryColor := fb.color } (fbIndex c.regs f.x f.y) f.sz f.dzpix (dzCompress f.dzpix) f.q.cvg
      fb.memcvg with
    | .error e => .error e
    | .ok (z, p) =>
      if z.pass then
        let b := blend1 c p f.q f.shadeA f.cdith (blendCtl f z)
        writePixel c b.2 f z fb.memcvg b.1
      else .ok p

/-- Stages 6 to 10 of a 2-cycle pixel (R706, R707). -/
def finish2 (c : Ctx) (p : Pixel) (f : Fragment) : Except Fault Pixel :=
  match fbRead c p.host (fbIndex c.regs f.x f.y) with
  | .error e => .error e
  | .ok fb =>
    match zCompare c { p with preMemoryColor := fb.color } (fbIndex c.regs f.x f.y) f.sz f.dzpix (dzCompress f.dzpix) f.q.cvg
      fb.memcvg with
    | .error e => .error e
    | .ok (z, p) =>
      if z.pass then
        let b := blend2 c p f.q f.shadeA f.cdith (blendCtl f z)
        writePixel c b.2 f z fb.memcvg b.1
      else .ok (takePreMemory p)

/-! ## Pixels -/

/-- A 1-cycle pixel (R703). -/
def pixel1 (c : Ctx) (l : Line) (j : Nat) (p : Pixel) : Except Fault Pixel :=
  let x := l.rx + j * l.xinc
  let acc := l.acc j
  let k := cvgLookup c.params (cvgAt p.cvgbuf x)
  match texels1 c p l.pos j (texPart acc) with
  | .error e => .error e
  | .ok ((t0, t1), p) =>
    let shade := shadeOf p k acc
    let d := ditherValues c p x l.i
    let noise := randIf (noiseUsed c.regs) c.params d.2
    let q := combine1 c (combineInputs c.regs p.lodFraction t0 t1 shade (noiseInput noise.1)) d.1.2 k.count
    finish1 c noise.2
      { x := x, y := l.i, sz := depthOf p k acc, dzpix := l.dzpix, cvbit := k.bit, q := q,
        shadeA := shadeAlphaDither shade.a d.1.2, cdith := d.1.1 }

/-- A 2-cycle pixel (R706). -/
def pixel2 (c : Ctx) (l : Line) (j : Nat) (p : Pixel) : Except Fault Pixel :=
  let x := l.rx + j * l.xinc
  let acc := l.acc j
  let k := cvgLookup c.params (cvgAt p.cvgbuf x)
  match texels2 c p l.pos j (texPart acc) with
  | .error e => .error e
  | .ok (t, p) =>
    let shade := shadeOf p k acc
    let d := ditherValues c p x l.i
    let noise := randIf (noiseUsed c.regs) c.params d.2
    let q := combine2 c (combineInputs c.regs p.lodFraction t.t0 t.t1 shade (noiseInput noise.1)) (texelFields t.next) d.1.2
      k.count
    finish2 c noise.2
      { x := x, y := l.i, sz := depthOf p k acc, dzpix := l.dzpix, cvbit := k.bit, q := q,
        shadeA := shadeAlphaDither shade.a d.1.2, cdith := d.1.1 }

/-- How many pixels a span of the given length has (R701). -/
def pixelCount (length : Int) : Nat := (length + 1).toNat

/-- A scanline of the 1-cycle renderer (R701, R703). -/
def line1 (c : Ctx) (i : Int) (p : Pixel) : Except Fault Pixel :=
  forE (pixel1 c (lineSetup c i)) 0 (pixelCount (lineSetup c i).length) (lineWrites c i p)

/-- A scanline of the 2-cycle renderer (R701, R706). -/
def line2 (c : Ctx) (i : Int) (p : Pixel) : Except Fault Pixel :=
  forE (pixel2 c (lineSetup c i)) 0 (pixelCount (lineSetup c i).length) (lineWrites c i p)

end Sys2Proof.Machine
end

