-- ==== Sys2Proof/Machine/Copy.lean ====
section
/-! DEFINITION. The copy renderer (43_span_renderers.md section 6): groups of eight bytes (R750), the raw fetch (R751), the
alpha mask (R752), the tile (R854). It reads neither image and writes no depth (R753). -/

namespace Sys2Proof.Machine

open Sys2Proof.Config

/-- `bpp` (R750). -/
def copyBpp (size : PixSize) : Nat :=
  match size with
  | .b4 => 1
  | .b8 => 1
  | .b16 => 2
  | .b32 => 4

/-- `step` (R750): the pixels of a group. -/
def copyStep (size : PixSize) : Nat :=
  match size with
  | .b4 => 8
  | .b8 => 8
  | .b16 => 4
  | .b32 => 2

/-- The raw texel `k` of a group (R751): its s is `32 * k` beyond the first one's shifted coordinate (log entry 15). -/
def copyTexel (c : Ctx) (tl : Tile) (s t : Nat) (k : Nat) : Nat :=
  let xs := tl.axisS
  let cs := shiftCoord xs (lodClampCoord s) + 32 * k
  let s' := wrapCoord xs (clampCoord xs (tileRelative xs cs) (beyondTile xs cs)).1
  let t' := wrapCoord tl.axisT (axisCoord tl.axisT (lodClampCoord t)).1
  match tl.size with
  | .b8 => (tmemRead8 c.tmem (texelByte8 tl s' t')).toNat
  | _ =>
    if c.regs.om.enTlut then paletteEntry c.tmem (paletteIndex c.tmem tl s' t') 0
    else tmemRead16 c.tmem (texelHalf16 tl s' t')

/-- The group of texels, the first in the most significant bits (R751). -/
def copyGroup (c : Ctx) (tl : Tile) (s t : Nat) (n width : Nat) : Nat :=
  (List.range n).foldl (fun q k => q * width + copyTexel c tl s t k) 0

/-- The case COPY_FETCH leaves open (R751): tile and target differ in size, or a YUV tile. -/
def copyMismatch (c : Ctx) (tl : Tile) : Bool := tl.size != c.regs.fbSize || tl.format == fmtYuv

/-- `CopyFetch(sss, sst, tile)` (R751), for an 8-bit or a 16-bit target, and 0 for a 4-bit one (R750). With en_tlut and an 8-bit
target the rule has eight 16-bit palette entries for a group of 64 bits and does not say which bits it keeps: the group is a
free value (log entry 15, DESIGN CHOICE). -/
def copyFetch (c : Ctx) (p : Pixel) (coord : Nat × Nat) (n : BitVec 3) : Except Fault (Nat × Pixel) :=
  let tl := c.regs.getTile n
  match c.regs.fbSize with
  | .b4 => .ok (0, p)
  | .b32 => .ok (0, p)
  | .b8 =>
    if copyMismatch c tl then
      match c.params.copyFetch with
      | .standard => .error .copySizeMismatch
      | .free => .ok (p.draw.1.toNat, p.draw.2)
    else if c.regs.om.enTlut then .ok (p.draw.1.toNat, p.draw.2)
    else .ok (copyGroup c tl coord.1 coord.2 8 0x100, p)
  | .b16 =>
    if copyMismatch c tl then
      match c.params.copyFetch with
      | .standard => .error .copySizeMismatch
      | .free => .ok (p.draw.1.toNat, p.draw.2)
    else .ok (copyGroup c tl coord.1 coord.2 4 0x10000, p)

/-- Byte `k` of a group, counted from the most significant. -/
def groupByte (q k : Nat) : Nat := (q >>> (8 * (7 - k))) &&& 0xff

/-- The mask of a 16-bit group (R752). -/
def copyMask16 (q : Nat) : Nat :=
  (if (q >>> 48) % 2 = 1 then 0xc0 else 0) ||| (if (q >>> 32) % 2 = 1 then 0x30 else 0) |||
    (if (q >>> 16) % 2 = 1 then 0x0c else 0) ||| (if q % 2 = 1 then 0x03 else 0)

/-- The threshold of byte pair `k` of an 8-bit group (R752). -/
def copyThreshold (dithered : Bool) (th k : Nat) : Nat :=
  if dithered then
    match k with
    | 0 => th
    | 1 => ((th &&& 3) <<< 6) ||| (th >>> 2)
    | 2 => ((th &&& 0xf) <<< 4) ||| (th >>> 4)
    | _ => ((th &&& 0x3f) <<< 2) ||| (th >>> 6)
  else th

/-- The mask of an 8-bit group (R752). -/
def copyMask8 (dithered : Bool) (q th : Nat) : Nat :=
  (if copyThreshold dithered th 0 ≤ groupByte q 4 then 0xc0 else 0) |||
    (if copyThreshold dithered th 1 ≤ groupByte q 5 then 0x30 else 0) |||
    (if copyThreshold dithered th 2 ≤ groupByte q 6 then 0x0c else 0) |||
    (if copyThreshold dithered th 3 ≤ groupByte q 7 then 0x03 else 0)

/-- `CopyMask(q)` (R752). -/
def copyMask (c : Ctx) (p : Pixel) (q : Nat) : Nat × Pixel :=
  if c.regs.om.alphaCompareEn then
    match c.regs.fbSize with
    | .b16 => (copyMask16 q, p)
    | .b8 =>
      let R := randIf c.regs.om.ditherAlphaEn c.params p
      (copyMask8 c.regs.om.ditherAlphaEn q (if c.regs.om.ditherAlphaEn then R.1 &&& 0xff else c.regs.blendColor.a.toNat), R.2)
    | .b4 => (0, p)
    | .b32 => (0, p)
  else (0xff, p)

/-- The masked bytes of a group, in the walking direction (R750). -/
def copyBytes (c : Ctx) (q m : Nat) (a : Int) (n : Nat) (host : HostMem) : Except Fault HostMem :=
  forE (fun k host =>
    if m.testBit (7 - k) then writePair8 c.params host (if c.walk.flip then a + k else a - k) (groupByte q k)
    else .ok host) 0 n host

/-- What is fixed for a copy scanline (R750). -/
structure CopyLine where
  pos : LinePos
  start : TexPoint
  fbptr : Int
  fbend : Int

/-- The set-up of a copy scanline (R750): no scissor adjustment. -/
def copySetup (c : Ctx) (i : Int) : CopyLine :=
  let sp := spanAt c.params c.walk i
  let bpp := copyBpp c.regs.fbSize
  { pos := { i := i, length := lineLength c.walk.flip sp, inc := texPart (c.walk.spansD.map (directed c.walk.flip)) },
    start := spanStart sp,
    fbptr := c.regs.fbAddress.toNat + fbIndex c.regs sp.rx.toNat i * bpp,
    fbend := c.regs.fbAddress.toNat + fbIndex c.regs sp.lx.toNat i * bpp }

/-- The accumulators of group `g` (R750): one increment a group. -/
def copyAcc (l : CopyLine) (g : Nat) : TexPoint :=
  { s := l.start.s + l.pos.inc.s * g, t := l.start.t + l.pos.inc.t * g, w := l.start.w + l.pos.inc.w * g }

/-- Group `g` of a copy scanline (R750); its first pixel is `g * step`. -/
def copyGroupStep (c : Ctx) (l : CopyLine) (g : Nat) (p : Pixel) : Except Fault Pixel :=
  let acc := copyAcc l g
  let j : Int := g * copyStep c.regs.fbSize
  match copyFetch c (writeLodFrac c p l.pos j acc) (persp c acc) (tilesOf c p l.pos j acc).1 with
  | .error e => .error e
  | .ok (q, p) =>
    let m := copyMask c p q
    let ptr : Int := if c.walk.flip then l.fbptr + 8 * g else l.fbptr - 8 * g
    let left : Int := (if c.walk.flip then l.fbend - ptr else ptr - l.fbend) + copyBpp c.regs.fbSize
    match copyBytes c q m.1 ptr (min 8 left).toNat m.2.host with
    | .error e => .error e
    | .ok host => .ok { m.2 with host := host }

/-- How many groups a span has: `j = 0, step, 2*step, ... <= length` (R750). -/
def groupCount (length : Int) (step : Nat) : Nat := if length < 0 then 0 else length.toNat / step + 1

/-- A scanline of the copy renderer (R750). -/
def lineCopy (c : Ctx) (i : Int) (p : Pixel) : Except Fault Pixel :=
  let l := copySetup c i
  forE (copyGroupStep c l) 0 (groupCount l.pos.length (copyStep c.regs.fbSize)) p

end Sys2Proof.Machine
end

