-- ==== Sys2Proof/Machine/EdgeWalker.lean ====
section
/-! DEFINITION. The edge walker (42_primitives.md sections 2 and 3): from a parameter block to span records and gradients. It
reads the registers and writes `Walk` and the two gradient sets of `Pixel`; it touches no memory and cannot fail. Running
values are unbounded integers (R13) and wrap to a record's field width when stored (log entry 29). -/

namespace Sys2Proof.Machine

open Sys2Proof.Config

/-! ## Vertical range (R620, R621, R623) -/

/-- The vertical limits of a primitive in sub-rows. -/
structure YRange where
  yhlimit : Int
  yllimit : Int
deriving DecidableEq, Repr

/-- `yllimit` and `yhlimit` (R620). -/
def yRange (r : Regs) (P : EdgeParams) : YRange where
  yllimit :=
    if hasBits P.yl 0x2000 then P.yl
    else if hasBits P.yl 0x1000 then r.clip.yl.toNat
    else if (iand P.yl 0xfff) < r.clip.yl.toNat then P.yl else r.clip.yl.toNat
  yhlimit :=
    if hasBits P.yh 0x2000 then r.clip.yh.toNat
    else if hasBits P.yh 0x1000 then P.yh
    else if P.yh ≥ r.clip.yh.toNat then P.yh else r.clip.yh.toNat

/-- `yhclose` (R620). -/
def YRange.yhclose (y : YRange) : Int := clearBits y.yhlimit 3

/-- The line after the primitive's last is marked invalid by R621's second case: it holds when the bottom is not below the
walk's end. -/
def endsInside (P : EdgeParams) (y : YRange) : Bool := !decide (P.yl >>> 2 > setBits y.yllimit 3 >>> 2)

/-- `ylfar` (R621). -/
def ylFar (P : EdgeParams) (y : YRange) : Int :=
  if endsInside P y then setBits y.yllimit 3 else setBits y.yllimit 3 + 4

/-! ## Gradients (R612) and the snapshot correction (R613) -/

/-- `spans_d` (R612), 32 bits; z whole (R612) or with its low 5 bits cleared (R122), by the parameter (log entry 33). -/
def spansDOf (z : SpansDz) (P : EdgeParams) : Attrs (BitVec 32) :=
  let d := P.dx.map (fun v => BitVec.ofInt 32 (clearBits v 0x1f))
  match z with
  | .whole => { d with z := BitVec.ofInt 32 P.dx.z }
  | .cleared => d

/-- `spans_dy` (R612). -/
def spansDyOf (P : EdgeParams) : Attrs (BitVec 32) :=
  let colour := fun v : Int => BitVec.ofInt 32 (sext 13 (v >>> 14))
  let coord := fun v : Int => BitVec.ofInt 32 (clearBits v 0x7fff)
  { r := colour P.dy.r, g := colour P.dy.g, b := colour P.dy.b, a := colour P.dy.a,
    s := coord P.dy.s, t := coord P.dy.t, w := coord P.dy.w, z := BitVec.ofInt 32 (sext 22 (P.dy.z >>> 10)) }

/-- `spans_cd` (R612); its s, t, w are not written (log entry 19). The low bits of spans_d's z do not reach it. -/
def spansCdOf (P : EdgeParams) (old : Attrs (BitVec 32)) : Attrs (BitVec 32) :=
  let d := spansDOf .whole P
  let colour := fun v : BitVec 32 => BitVec.ofInt 32 (sext 13 (v.toInt >>> 14))
  { r := colour d.r, g := colour d.g, b := colour d.b, a := colour d.a,
    s := old.s, t := old.t, w := old.w, z := BitVec.ofInt 32 (sext 22 (d.z.toInt >>> 10)) }

/-- The one's-complement magnitude of a depth gradient's integer half (R612). -/
def dzMagnitude (v : Int) : Nat :=
  let h := iand (v >>> 16) 0xffff
  if h &&& 0x8000 ≠ 0 then 0x7fff - (h &&& 0x7fff) else h

/-- `spans_dzpix` (R612). -/
def spansDzpixOf (P : EdgeParams) : Nat := normalizeDzpix ((dzMagnitude P.dy.z + dzMagnitude P.dx.z) &&& 0xffff)

/-- `sign_dxhdy xor flip` (R613): the snapshot is taken at sub-row 0, without an offset. -/
def loadsFirst (P : EdgeParams) : Bool := decide (P.dxhdy < 0) != P.flip

/-- The load-flag sub-row (R613), part of what EW_OFFSET = free frees (log entry 16). -/
def ldFlag (c : Ctx) (P : EdgeParams) : Nat :=
  match c.params.ewOffset with
  | .standard => if loadsFirst P then 0 else 3
  | .free => (ewLoadRowFree (decide (P.dxhdy < 0)) P.flip).toNat

/-- `(vdiff, dvdxh)` of one attribute (R613), EW_OFFSET's default, from its gradients. -/
def ewOffsetStd (copyMode first : Bool) (dx de dy : Int) : Int × Int :=
  let deh := clearBits de 0x1ff
  let dyh := clearBits dy 0x1ff
  (if first then 0 else deh - (deh >>> 2) - dyh + (dyh >>> 2), if copyMode then 0 else clearBits (dx >>> 8) 1)

/-- `(vdiff, dvdxh)` of one attribute (R613). EW_OFFSET = free frees all that R613 computes, for each attribute by itself, and
leaves R614's use of it (log entry 16, DESIGN CHOICE). -/
def ewOffset (c : Ctx) (P : EdgeParams) (v : Attr) (dx de dy : Int) : Int × Int :=
  match c.params.ewOffset with
  | .standard => ewOffsetStd (c.regs.om.cycleType == .copy) (loadsFirst P) dx de dy
  | .free =>
    let f := ewOffsetFree
      { attr := v, copyMode := c.regs.om.cycleType == .copy, dxhdyNegative := decide (P.dxhdy < 0), flip := P.flip,
        dx := BitVec.ofInt 32 dx, de := BitVec.ofInt 32 de, dy := BitVec.ofInt 32 dy }
    (f.1.toInt, f.2.toInt)

/-- The name of each attribute. -/
def attrNames : Attrs Attr := { r := .r, g := .g, b := .b, a := .a, s := .s, t := .t, w := .w, z := .z }

/-- The offsets of every attribute (R613). -/
def ewOffsets (c : Ctx) (P : EdgeParams) : Attrs (Int × Int) :=
  Attrs.zip (fun v g => ewOffset c P v g.1 g.2.1 g.2.2) attrNames (Attrs.zip Prod.mk P.dx (Attrs.zip Prod.mk P.de P.dy))

/-! ## Sub-row bounds and cross-over (R615, R616) -/

/-- A scissored sub-row bound in eighths, and whether it was clipped on the left or on the right (R615). -/
structure SubBound where
  x : Nat
  leftOut : Bool
  rightOut : Bool
deriving DecidableEq, Repr

/-- The bound of an edge x (R615). -/
def subBound (clip : Rect) (X : Int) : SubBound :=
  let sticky := bitNat (hasBits (X >>> 1) 0x1fff)
  let lo := clip.xh.toNat * 2
  let hi := clip.xl.toNat * 2
  let leftOut := hasBits X 0x8000000 || decide (iand (X >>> 13) 0x1ffe ||| sticky < lo)
  let x := if leftOut then lo else iand (X >>> 13) 0x3ffe ||| sticky
  let rightOut := x &&& 0x2000 ≠ 0 || decide (hi ≤ x &&& 0x1fff)
  { x := if rightOut then hi else x, leftOut := leftOut, rightOut := rightOut }

/-- The key of R616: an edge x to a quarter pixel, offset so that it compares unsigned. -/
def crossKey (X : Int) : Nat := iand X (0x3fff <<< 14) ^^^ (1 <<< 27)

/-- A sub-row whose edges are inverted (R616). -/
def crossed (flip : Bool) (xmaj xmin : Int) : Bool :=
  if flip then decide (crossKey xmin < crossKey xmaj) else decide (crossKey xmaj < crossKey xmin)

/-! ## The walk (R610, R611, R614, R617, R618) -/

/-- What is fixed for a walk. -/
structure WalkEnv where
  P : EdgeParams
  y : YRange
  offs : Attrs (Int × Int)

/-- What a walk carries from sub-row to sub-row. -/
structure WalkAcc where
  xmaj : Int
  xmin : Int
  xminInc : Int
  acc : Attrs Int
  allover : Bool
  allunder : Bool
  allinval : Bool
  extMaj : Nat
  extMin : Nat
  span : List (Nat × Span)

/-- An edge x or slope with its lowest bit cleared (R611). -/
def evenX (v : Int) : Int := clearBits v 1

/-- `xmaj_inc`, and `xmin_inc` by its slope (R611). -/
def quarterSlope (v : Int) : Int := clearBits (v >>> 2) 1

/-- The minor edge switches at the middle vertex (R611). -/
def switchMinor (P : EdgeParams) (k : Int) (a : WalkAcc) : WalkAcc :=
  if k = P.ym then { a with xmin := evenX P.xl, xminInc := quarterSlope P.dxldy } else a

/-- The accumulators of a scanline at its first sub-row (R617). -/
def resetLine (flip : Bool) (spix : Nat) (a : WalkAcc) : WalkAcc :=
  if spix = 0 then
    { a with allover := true, allunder := true, allinval := true,
             extMaj := if flip then 0xfff else 0, extMin := if flip then 0 else 0xfff }
  else a

/-- The snapshot of one attribute (R614). -/
def snapshot (xfrac : Nat) (v : Int) (off : Int × Int) : BitVec 32 :=
  BitVec.ofInt 32 (clearBits (clearBits v 0x1ff + off.1 - xfrac * off.2) 0x3ff)

/-- The snapshot taken at the load-flag sub-row (R614). -/
def loadSnapshot (e : WalkEnv) (a : WalkAcc) (sp : Span) : Span :=
  { sp with unscrx := BitVec.ofInt 12 (a.xmaj >>> 16),
            start := Attrs.zip (snapshot (iand (a.xmaj >>> 8) 0xff)) a.acc e.offs }

/-- The sub-row is invalid: outside the vertical limits (R620) or crossed (R616). -/
def subInvalid (e : WalkEnv) (k : Int) (a : WalkAcc) : Bool :=
  decide (k < e.y.yhlimit) || decide (k ≥ e.y.yllimit) || crossed e.P.flip a.xmaj a.xmin

/-- The bounds, flags and extent after an in-range sub-row (R615, R617). -/
def accumLine (flip inval : Bool) (maj mnr : SubBound) (a : WalkAcc) : WalkAcc :=
  { a with
    allover := a.allover && maj.rightOut && mnr.rightOut
    allunder := a.allunder && maj.leftOut && mnr.leftOut
    allinval := a.allinval && inval
    extMin :=
      if inval then a.extMin
      else if flip then max a.extMin ((mnr.x >>> 3) &&& 0xfff) else min a.extMin ((mnr.x >>> 3) &&& 0xfff)
    extMaj :=
      if inval then a.extMaj
      else if flip then min a.extMaj ((maj.x >>> 3) &&& 0xfff) else max a.extMaj ((maj.x >>> 3) &&& 0xfff) }

/-- The scanline's extent and validity at its last sub-row (R617, R618). -/
def closeLine (r : Regs) (j : Int) (a : WalkAcc) (sp : Span) : Span :=
  { sp with
    lx := BitVec.ofNat 12 a.extMin
    rx := BitVec.ofNat 12 a.extMaj
    validline := !a.allinval && !a.allover && !a.allunder && (!r.scField || r.scKeepOdd == (iand j 1 == 1)) }

/-- An in-range sub-row's effect on the scanline's record and on the line accumulators (R614 to R618). -/
def rangeRow (c : Ctx) (e : WalkEnv) (k : Int) (a : WalkAcc) : WalkAcc :=
  let j := k >>> 2
  let spix := iand k 3
  let inval := subInvalid e k a
  let maj := subBound c.regs.clip a.xmaj
  let mnr := subBound c.regs.clip a.xmin
  let a' := accumLine e.P.flip inval maj mnr a
  let record := fun sp : Span =>
    let sp := { sp with majorx := sp.majorx.put spix (BitVec.ofNat 13 maj.x),
                        minorx := sp.minorx.put spix (BitVec.ofNat 13 mnr.x),
                        invalyscan := sp.invalyscan.put spix inval }
    let sp := if spix = ldFlag c e.P then loadSnapshot e a sp else sp
    if spix = 3 then closeLine c.regs j a' sp else sp
  { a' with span := spanUpdate c.params a'.span j record }

/-- The end of a sub-row: the edges advance, and the attributes after a scanline's last sub-row (R611, R614). -/
def advanceRow (e : WalkEnv) (spix : Nat) (a : WalkAcc) : WalkAcc :=
  { a with xmaj := a.xmaj + quarterSlope e.P.dxhdy, xmin := a.xmin + a.xminInc,
           acc := if spix = 3 then Attrs.zip (· + ·) a.acc e.P.de else a.acc }

/-- One sub-row of the walk (R610). -/
def walkRow (c : Ctx) (e : WalkEnv) (k : Int) (a : WalkAcc) : WalkAcc :=
  let spix := iand k 3
  let a := resetLine e.P.flip spix (switchMinor e.P k a)
  let a := if k ≥ e.y.yhclose then rangeRow c e k a else a
  advanceRow e spix a

/-- R621's second case: the record after the last line is marked invalid. -/
def markEnd (c : Ctx) (P : EdgeParams) (y : YRange) (sp : List (Nat × Span)) : List (Nat × Span) :=
  if endsInside P y && decide (0 ≤ y.yllimit >>> 2) && decide (y.yllimit >>> 2 < 1023) then
    spanUpdate c.params sp (y.yllimit >>> 2 + 1) (fun r => { r with validline := false })
  else sp

/-- The span records after the walk (R610): sub-rows `P.yh & ~3 .. ylfar`. -/
def walkSpans (c : Ctx) (P : EdgeParams) : List (Nat × Span) :=
  let y := yRange c.regs P
  let e : WalkEnv := { P := P, y := y, offs := ewOffsets c P }
  let ycur := clearBits P.yh 3
  let a0 : WalkAcc :=
    { xmaj := evenX P.xh, xmin := evenX P.xm, xminInc := quarterSlope P.dxmdy, acc := P.v, allover := true,
      allunder := true, allinval := true, extMaj := 0, extMin := 0, span := markEnd c P y c.walk.span }
  (forP (fun i a => walkRow c e (ycur + i) a) 0 (ylFar P y + 1 - ycur).toNat a0).span

/-- `EdgeWalk(P)` (R610, R612): the context with the walker's output, and the pixel part with its gradients. -/
def edgeWalk (c : Ctx) (P : EdgeParams) : Ctx :=
  { c with walk := { span := walkSpans c P, spansD := spansDOf c.params.spansDz P,
                     spansDzpix := BitVec.ofNat 16 (spansDzpixOf P), primTile := P.tile, maxLevel := P.maxLevel, flip := P.flip } }

/-- The gradients of R612 that R701 may overwrite. -/
def edgeGradients (P : EdgeParams) (p : Pixel) : Pixel :=
  { p with spansDy := spansDyOf P, spansCd := spansCdOf P p.spansCd }

/-- The scanlines the renderer walks (R623), as a first line and a count. -/
def renderRange (c : Ctx) (P : EdgeParams) : Int × Nat :=
  let y := yRange c.regs P
  let ystart : Int := max 0 (y.yhlimit >>> 2)
  let yend := min (y.yllimit >>> 2) ((c.params.maxScanlines : Int) - 1)
  (ystart, (yend + 1 - ystart).toNat)

end Sys2Proof.Machine
end

