-- ==== Sys2Proof/Machine/Fill.lean ====
section
/-! DEFINITION. The fill renderer (43_span_renderers.md section 5): the crash conditions (R740, R1101), the fill pixel (R741). It
reads no host memory (R742). -/

namespace Sys2Proof.Machine

open Sys2Proof.Config

/-- `FillPixel(n)` (R741). A 4-bit image has none: R740 crashes before any pixel. -/
def fillPixel (c : Ctx) (n : Int) (m : HostMem) : Except Fault HostMem :=
  let a := fbPixelAddr c.regs n
  let color := c.regs.fillColor.toNat
  match c.regs.fbSize with
  | .b4 => .ok m
  | .b8 => writePair8 c.params m a ((color >>> (8 * (3 - iand a 3))) &&& 0xff)
  | .b16 =>
    let v := if hasBits a 2 then color &&& 0xffff else color >>> 16
    writePair16 c.params m a v (hidOfLowBit v)
  | .b32 => writePair32 c.params m a color (hidOfLowBit (color >>> 16)) (hidOfLowBit color)

/-- The scanlines of a range that the scissor lets through (R618, R623), in the order they are drawn. -/
def validLines (c : Ctx) (range : Int × Nat) : List Int :=
  ((List.range range.2).map (fun n => range.1 + (n : Int))).filter (fun i => (spanAt c.params c.walk i).validline)

/-- The length of scanline `i` of a fill, below 0 for a line without a pixel (R740). -/
def fillLength (c : Ctx) (i : Int) : Int := lineLength c.walk.flip (spanAt c.params c.walk i)

/-- After how many of its pixels a fill primitive latches under FILL_KILL_MODE = free, if it does (R740, R1104, D16). -/
def fillKillPoint (c : Ctx) (range : Int × Nat) : Option Nat :=
  let om := c.regs.om
  fillKillFree
    { imageReadEn := om.imageReadEn, zCompareEn := om.zCompareEn, zUpdateEn := om.zUpdateEn, zSourceSel := om.zSourceSel,
      lengths := (validLines c range).map (fillLength c) }

/-- The pixels of a primitive before its scanline `i`. -/
def pixelsBefore (c : Ctx) (range : Int × Nat) (i : Int) : Nat :=
  (((validLines c range).filter (fun k => decide (k < i))).map (fun k => pixelCount (fillLength c k))).sum

/-- After how many pixels of scanline `i` a fill with read or depth modes crashes, if it crashes there (R740): with `fastkill`
before the first, with `slowkill` after the last; under FILL_KILL_MODE = free where its point falls. -/
def lineKill (c : Ctx) (range : Int × Nat) (i : Int) : Option Nat :=
  let om := c.regs.om
  match c.params.fillKillMode with
  | .standard =>
    if fillLength c i < 0 then none
    else if om.imageReadEn || om.zCompareEn then some 0
    else if om.zUpdateEn && !om.zSourceSel then some (pixelCount (fillLength c i))
    else none
  | .free =>
    match fillKillPoint c range with
    | none => none
    | some k =>
      if k ≤ pixelsBefore c range i + pixelCount (fillLength c i) then some (k - pixelsBefore c range i) else none

/-- A point before every pixel is met even by a primitive without a scanline: only FILL_KILL_MODE = free can have it. -/
def killsAtEntry (c : Ctx) (range : Int × Nat) : Bool :=
  match c.params.fillKillMode with
  | .standard => false
  | .free => fillKillPoint c range == some 0

/-- The first `count` pixels of a fill scanline, from `rx` on towards `lx` (R740). -/
def fillPixels (c : Ctx) (i : Int) (count : Nat) (p : Pixel) : Except Fault Pixel :=
  let sp := spanAt c.params c.walk i
  forE (fun j p =>
    match fillPixel c (fbIndex c.regs (sp.rx.toNat + (if c.walk.flip then (j : Int) else -j)) i) p.host with
    | .ok m => .ok { p with host := m }
    | .error e => .error e)
    0 count p

/-- A scanline of the fill renderer (R740): its pixels, `rx` to `lx` inclusive, or those before a crash and the crash. -/
def lineFill (c : Ctx) (range : Int × Nat) (i : Int) (p : Pixel) : Except Fault Pixel :=
  match lineKill c range i with
  | none => fillPixels c i (pixelCount (fillLength c i)) p
  | some k =>
    match fillPixels c i (min k (pixelCount (fillLength c i))) p with
    | .ok p => .ok (crashLatch .fillModeReadDepthBits p)
    | .error e => .error e

end Sys2Proof.Machine
end

