-- ==== Sys2Proof/Machine/Primitives.lean ====
section
/-! DEFINITION. The eleven rendering commands (42_primitives.md sections 1 and 4): each is nothing while the crash latch is set
(R1106), else the edge walk of its parameter block and the renderer of the cycle type (R700). -/

namespace Sys2Proof.Machine

open Sys2Proof.Config

/-- One scanline of the selected renderer (R700), in a primitive's range. -/
def renderLine (c : Ctx) (range : Int × Nat) (i : Int) (p : Pixel) : Except Fault Pixel :=
  match c.regs.om.cycleType with
  | .oneCycle => line1 c i p
  | .twoCycle => line2 c i p
  | .copy => lineCopy c i p
  | .fill => lineFill c range i p

/-- The scissor lets a scanline of the range through (R618, R1204). -/
def hasScanline (c : Ctx) (range : Int × Nat) : Bool :=
  !(validLines c range).isEmpty

/-- Whether a fill primitive on a 4-bit image crashes: on every primitive (R740, R1101), or where a scanline is let through
(R1204), by the parameter (log entry 10). -/
def fill4Crashes (c : Ctx) (range : Int × Nat) : Bool :=
  match c.params.fill4Check with
  | .always => true
  | .withScanline => hasScanline c range

/-- A crash condition checked once per primitive, before any scanline (R740, R750, R1103): the illegal targets, and a kill point
of FILL_KILL_MODE = free before every pixel. -/
def entryCrash (c : Ctx) (range : Int × Nat) : Option CrashName :=
  match c.regs.om.cycleType with
  | .oneCycle => none
  | .twoCycle => none
  | .copy => if c.regs.fbSize = .b32 then some .copy32BitTarget else none
  | .fill =>
    if c.regs.fbSize = .b4 then if fill4Crashes c range then some .fill4BitTarget else none
    else if killsAtEntry c range then some .fillModeReadDepthBits
    else none

/-- One valid scanline, unless the crash latch is set (R700, R623). -/
def renderStep (c : Ctx) (range : Int × Nat) (i : Int) (p : Pixel) : Except Fault Pixel :=
  if p.crashed || !(spanAt c.params c.walk i).validline then .ok p else renderLine c range i p

/-- `RenderSpans(P)` (R700, R623), over the scanlines of the walk's range in increasing y (R251). -/
def renderSpans (c : Ctx) (range : Int × Nat) (p : Pixel) : Except Fault Pixel :=
  match entryCrash c range with
  | some name => .ok (crashLatch name p)
  | none => forE (fun n p => renderStep c range (range.1 + n) p) 0 range.2 p

/-- A primitive: EdgeWalk, then RenderSpans (R600). -/
def drawPrimitive (P : EdgeParams) (s : State) : Except Fault State :=
  let c := edgeWalk s.toCtx P
  match renderSpans c (renderRange c P) (edgeGradients P s.pixel) with
  | .ok p => .ok ((s.setWalk c.walk).setPixel p)
  | .error e => .error e

/-- A rendering command (R600, R1106): no effect at all while the crash latch is set. -/
def runPrimitive (P : EdgeParams) (s : State) : Result :=
  if s.pixel.crashed then .next s else ofExcept (drawPrimitive P s)

/-- TRI_FILL (R600). -/
def execTriFill (e : EdgeCoeffs) (s : State) : Result := runPrimitive (triParams e noShade noTex noDepth) s

/-- TRI_FILL_Z (R601). -/
def execTriFillZ (e : EdgeCoeffs) (z : Coeff) (s : State) : Result := runPrimitive (triParams e noShade noTex z) s

/-- TRI_TEX (R602). -/
def execTriTex (e : EdgeCoeffs) (t : TexCoeffs) (s : State) : Result := runPrimitive (triParams e noShade t noDepth) s

/-- TRI_TEX_Z (R603). -/
def execTriTexZ (e : EdgeCoeffs) (t : TexCoeffs) (z : Coeff) (s : State) : Result :=
  runPrimitive (triParams e noShade t z) s

/-- TRI_SHADE (R604). -/
def execTriShade (e : EdgeCoeffs) (c : ShadeCoeffs) (s : State) : Result := runPrimitive (triParams e c noTex noDepth) s

/-- TRI_SHADE_Z (R605). -/
def execTriShadeZ (e : EdgeCoeffs) (c : ShadeCoeffs) (z : Coeff) (s : State) : Result :=
  runPrimitive (triParams e c noTex z) s

/-- TRI_SHADE_TEX (R606). -/
def execTriShadeTex (e : EdgeCoeffs) (c : ShadeCoeffs) (t : TexCoeffs) (s : State) : Result :=
  runPrimitive (triParams e c t noDepth) s

/-- TRI_SHADE_TEX_Z (R607). -/
def execTriShadeTexZ (e : EdgeCoeffs) (c : ShadeCoeffs) (t : TexCoeffs) (z : Coeff) (s : State) : Result :=
  runPrimitive (triParams e c t z) s

/-- TEX_RECT (R630). -/
def execTexRect (r : Rect) (tile : BitVec 3) (x : RectTex) (s : State) : Result :=
  runPrimitive (rectParams s.regs.om.cycleType r tile (texRectAttrs x)) s

/-- TEX_RECT_FLIP (R631). -/
def execTexRectFlip (r : Rect) (tile : BitVec 3) (x : RectTex) (s : State) : Result :=
  runPrimitive (rectParams s.regs.om.cycleType r tile (texRectFlipAttrs x)) s

/-- FILL_RECT (R632). -/
def execFillRect (r : Rect) (s : State) : Result :=
  runPrimitive (rectParams s.regs.om.cycleType r 0 fillRectAttrs) s

end Sys2Proof.Machine
end

