-- ==== Sys2Proof/Machine/Dispatch.lean ====
section
/-! DEFINITION. One arm per constructor of `Instr`: the meaning of every command. -/

namespace Sys2Proof.Machine

def exec (i : Instr) (s : State) : Host.Outcome State Fault Refusal :=
  match i with
  | .nop => Sys2Proof.Machine.execNop s
  | .unassigned01 => Sys2Proof.Machine.execUnassigned01 s
  | .unassigned02 => Sys2Proof.Machine.execUnassigned02 s
  | .unassigned03 => Sys2Proof.Machine.execUnassigned03 s
  | .unassigned04 => Sys2Proof.Machine.execUnassigned04 s
  | .unassigned05 => Sys2Proof.Machine.execUnassigned05 s
  | .unassigned06 => Sys2Proof.Machine.execUnassigned06 s
  | .unassigned07 => Sys2Proof.Machine.execUnassigned07 s
  | .triFill e => Sys2Proof.Machine.execTriFill e s
  | .triFillZ e z => Sys2Proof.Machine.execTriFillZ e z s
  | .triTex e t => Sys2Proof.Machine.execTriTex e t s
  | .triTexZ e t z => Sys2Proof.Machine.execTriTexZ e t z s
  | .triShade e c => Sys2Proof.Machine.execTriShade e c s
  | .triShadeZ e c z => Sys2Proof.Machine.execTriShadeZ e c z s
  | .triShadeTex e c t => Sys2Proof.Machine.execTriShadeTex e c t s
  | .triShadeTexZ e c t z => Sys2Proof.Machine.execTriShadeTexZ e c t z s
  | .unassigned10 => Sys2Proof.Machine.execUnassigned10 s
  | .unassigned11 => Sys2Proof.Machine.execUnassigned11 s
  | .unassigned12 => Sys2Proof.Machine.execUnassigned12 s
  | .unassigned13 => Sys2Proof.Machine.execUnassigned13 s
  | .unassigned14 => Sys2Proof.Machine.execUnassigned14 s
  | .unassigned15 => Sys2Proof.Machine.execUnassigned15 s
  | .unassigned16 => Sys2Proof.Machine.execUnassigned16 s
  | .unassigned17 => Sys2Proof.Machine.execUnassigned17 s
  | .unassigned18 => Sys2Proof.Machine.execUnassigned18 s
  | .unassigned19 => Sys2Proof.Machine.execUnassigned19 s
  | .unassigned1A => Sys2Proof.Machine.execUnassigned1A s
  | .unassigned1B => Sys2Proof.Machine.execUnassigned1B s
  | .unassigned1C => Sys2Proof.Machine.execUnassigned1C s
  | .unassigned1D => Sys2Proof.Machine.execUnassigned1D s
  | .unassigned1E => Sys2Proof.Machine.execUnassigned1E s
  | .unassigned1F => Sys2Proof.Machine.execUnassigned1F s
  | .unassigned20 => Sys2Proof.Machine.execUnassigned20 s
  | .unassigned21 => Sys2Proof.Machine.execUnassigned21 s
  | .unassigned22 => Sys2Proof.Machine.execUnassigned22 s
  | .unassigned23 => Sys2Proof.Machine.execUnassigned23 s
  | .texRect r tile x => Sys2Proof.Machine.execTexRect r tile x s
  | .texRectFlip r tile x => Sys2Proof.Machine.execTexRectFlip r tile x s
  | .syncLoad => Sys2Proof.Machine.execSyncLoad s
  | .syncPipe => Sys2Proof.Machine.execSyncPipe s
  | .syncTile => Sys2Proof.Machine.execSyncTile s
  | .syncFull => Sys2Proof.Machine.execSyncFull s
  | .setKeyGb widthG widthB centerG scaleG centerB scaleB => Sys2Proof.Machine.execSetKeyGb widthG widthB centerG scaleG centerB scaleB s
  | .setKeyR widthR centerR scaleR => Sys2Proof.Machine.execSetKeyR widthR centerR scaleR s
  | .setConvert k0 k1 k2 k3 k4 k5 => Sys2Proof.Machine.execSetConvert k0 k1 k2 k3 k4 k5 s
  | .setScissor clip field keepOdd => Sys2Proof.Machine.execSetScissor clip field keepOdd s
  | .setPrimDepth z dz => Sys2Proof.Machine.execSetPrimDepth z dz s
  | .setOtherModes om => Sys2Proof.Machine.execSetOtherModes om s
  | .loadTlut tile b => Sys2Proof.Machine.execLoadTlut tile b s
  | .unassigned31 => Sys2Proof.Machine.execUnassigned31 s
  | .setTileSize tile b => Sys2Proof.Machine.execSetTileSize tile b s
  | .loadBlock tile sl tl sh dxt => Sys2Proof.Machine.execLoadBlock tile sl tl sh dxt s
  | .loadTile tile b => Sys2Proof.Machine.execLoadTile tile b s
  | .setTile tile m => Sys2Proof.Machine.execSetTile tile m s
  | .fillRect r => Sys2Proof.Machine.execFillRect r s
  | .setFillColor c => Sys2Proof.Machine.execSetFillColor c s
  | .setFogColor c => Sys2Proof.Machine.execSetFogColor c s
  | .setBlendColor c => Sys2Proof.Machine.execSetBlendColor c s
  | .setPrimColor lodMin lodFrac c => Sys2Proof.Machine.execSetPrimColor lodMin lodFrac c s
  | .setEnvColor c => Sys2Proof.Machine.execSetEnvColor c s
  | .setCombine cc => Sys2Proof.Machine.execSetCombine cc s
  | .setTextureImage img => Sys2Proof.Machine.execSetTextureImage img s
  | .setMaskImage address => Sys2Proof.Machine.execSetMaskImage address s
  | .setColorImage img => Sys2Proof.Machine.execSetColorImage img s

end Sys2Proof.Machine
end

