-- ==== Sys2Proof/Machine/Step.lean ====
section
/-! DEFINITION. One step of the engine: one whole command (R100, R301). The cursor moves past the command's words, then the
command runs. -/

namespace Sys2Proof.Machine

/-- The next command and its length in words, from the words at the cursor (R301). -/
def State.fetch (s : State) : Except DecodeError (Instr × Nat) := decode (s.cmds.drop s.cmdIndex)

/-- One step (R301); stuck when too few words remain (R1207). -/
def step (s : State) : Host.Outcome State Fault Refusal :=
  match s.fetch with
  | .error _ => .fault .stuck
  | .ok (i, len) => exec i (s.setCmdIndex (s.cmdIndex + len))

/-- `s` with the instruction whose table bits are `w` stored at the cursor, so that `step` runs exactly it (log entry 4). -/
def State.withFetchWord (s : State) (nbits w : Nat) : State :=
  s.setCmds (s.cmds.take s.cmdIndex ++ List.replicate (s.cmdIndex - s.cmds.length) 0 ++ tableWords nbits w ++
    s.cmds.drop (s.cmdIndex + maxCmdWords))

end Sys2Proof.Machine
end

