-- ==== Sys2Proof/Machine/HostInterface.lean ====
section
/-! DEFINITION. What the host does between commands: it supplies words (R103, R1207), resets the engine (R1206), and writes its
own memory (R253, R257). None of these is a step of the engine. -/

namespace Sys2Proof.Machine

/-- The host appends words to the command sequence (R103, R1207). -/
def State.supply (s : State) (ws : List Word64) : State := s.setCmds (s.cmds ++ ws)

/-- Host reset (R1206): every item of R1203, a new command sequence, host memory untouched. The parameters, the sink and the
count of free values are no items of R1203 and stay (log entry 28). -/
def State.hostReset (s : State) (ws : List Word64) : State :=
  { State.reset with
    params := s.params
    pixel := { Pixel.reset with host := s.pixel.host, diag := s.pixel.diag, draws := s.pixel.draws }
    cmds := ws }

/-- The host stores a byte of its memory between commands (R253, R257). The hidden field of its halfword stays: the spec pairs
hidden fields with the engine's writes alone (R207) and says nothing of the host's (log entry 34, DESIGN CHOICE). -/
def State.hostPoke (s : State) (a : Nat) (v : Byte) : State :=
  s.setPixel { s.pixel with host := s.pixel.host.setByte a v }

/-- The host sets a hidden field of its memory between commands: hidden bits are part of its memory's contents, which it may
give (R1205; log entry 34). -/
def State.hostPokeHidden (s : State) (h : Nat) (v : BitVec 2) : State :=
  s.setPixel { s.pixel with host := s.pixel.host.setHidden h v }

end Sys2Proof.Machine
end

