-- ==== Sys2Proof/Safety.lean ====
section
/-! DEFINITION. What a well-kept state is, and under which conditions on the state and the operands a command completes: the
terms in which the statements of Certificates/Slice0 are written. -/

namespace Sys2Proof.Machine

open Sys2Proof.Config

/-! ## The invariant every step keeps -/

/-- Host memory is canonical and lists nothing at or beyond RDRAM_SIZE (R209). -/
def hostInv (P : Params) (m : HostMem) : Bool :=
  Memory.wf m && sparseBelow P.rdramSize m.mem && sparseBelow ((P.rdramSize + 1) / 2) m.hid

/-- TMEM is canonical, 4096 bytes (R119). -/
def tmemInv (m : List Host.Cell) : Bool := sparseWf (some byteZero) m && sparseBelow 4096 m

/-- The coverage buffer is canonical, 1024 bytes (R123). -/
def cvgInv (m : List Host.Cell) : Bool := sparseWf (some byteZero) m && sparseBelow 1024 m

/-- The span buffer is canonical, MAX_SCANLINES records (R121, R624). -/
def spanInv (P : Params) (m : List (Nat × Span)) : Bool := sparseWf (some Span.zero) m && sparseBelow P.maxScanlines m

/-- An image width is 1..1024 (R113, R114). -/
def widthInv (w : BitVec 11) : Bool := decide (1 ≤ w.toNat) && decide (w.toNat ≤ 1024)

/-- An image address lies within ADDR_MASK (R113, R422 to R424). -/
def addrInv (P : Params) (a : BitVec 26) : Bool := imageAddress P a == a

/-- The image registers hold what their commands can put there (R113 to R115). -/
def regsInv (P : Params) (r : Regs) : Bool :=
  widthInv r.fbWidth && widthInv r.tiWidth && addrInv P r.fbAddress && addrInv P r.tiAddress && addrInv P r.zbAddress

/-- The invariant of the machine: every sparse list is canonical and within its bounds, the image registers are in range, the
cursor lies in the command sequence (R103). -/
def State.Inv (s : State) : Prop :=
  hostInv s.params s.pixel.host = true ∧ tmemInv s.tmem = true ∧ cvgInv s.pixel.cvgbuf = true ∧
    spanInv s.params s.walk.span = true ∧ regsInv s.params s.regs = true ∧ s.cmdIndex ≤ s.cmds.length

/-! ## The kinds of commands -/

/-- The rendering commands (R1102). -/
def isRendering : Instr → Bool
  | .triFill _ => true
  | .triFillZ _ _ => true
  | .triTex _ _ => true
  | .triTexZ _ _ _ => true
  | .triShade _ _ => true
  | .triShadeZ _ _ _ => true
  | .triShadeTex _ _ _ => true
  | .triShadeTexZ _ _ _ _ => true
  | .texRect _ _ _ => true
  | .texRectFlip _ _ _ => true
  | .fillRect _ => true
  | _ => false

/-- The parameter block of a rendering command under a cycle type (R600 to R608, R630 to R632); none for another command. -/
def edgeParamsOf (ct : CycleType) : Instr → Option EdgeParams
  | .triFill e => some (triParams e noShade noTex noDepth)
  | .triFillZ e z => some (triParams e noShade noTex z)
  | .triTex e t => some (triParams e noShade t noDepth)
  | .triTexZ e t z => some (triParams e noShade t z)
  | .triShade e c => some (triParams e c noTex noDepth)
  | .triShadeZ e c z => some (triParams e c noTex z)
  | .triShadeTex e c t => some (triParams e c t noDepth)
  | .triShadeTexZ e c t z => some (triParams e c t z)
  | .texRect r tile x => some (rectParams ct r tile (texRectAttrs x))
  | .texRectFlip r tile x => some (rectParams ct r tile (texRectFlipAttrs x))
  | .fillRect r => some (rectParams ct r 0 fillRectAttrs)
  | _ => none

/-- The texture loads (R500 to R502). -/
def isLoad : Instr → Bool
  | .loadTile _ _ => true
  | .loadBlock _ _ _ _ _ => true
  | .loadTlut _ _ => true
  | _ => false

/-! ## Where a primitive may store -/

/-- The x of pixel `j` of a scanline, counted from the major edge (R619, R701). -/
def pixelColumn (c : Ctx) (i : Int) (j : Nat) : Int :=
  (spanAt c.params c.walk i).rx.toNat + (if c.walk.flip then (j : Int) else -j)

/-- The host bytes of a pixel of the colour image (R710, R716). -/
def pixelBytes : PixSize → Nat
  | .b4 => 1
  | .b8 => 1
  | .b16 => 2
  | .b32 => 4

/-- Byte `a` belongs to a pixel of scanline `i` in the colour image (R710). -/
def colourByte (c : Ctx) (i : Int) (a : Nat) : Prop :=
  ∃ j k : Nat, (j : Int) ≤ lineLength c.walk.flip (spanAt c.params c.walk i) ∧ k < pixelBytes c.regs.fbSize ∧
    a = maskAddr c.params (fbPixelAddr c.regs (fbIndex c.regs (pixelColumn c i j) i) + k)

/-- Byte `a` belongs to the depth entry of a pixel of scanline `i` (R1009). -/
def depthByte (c : Ctx) (i : Int) (a : Nat) : Prop :=
  ∃ j k : Nat, (j : Int) ≤ lineLength c.walk.flip (spanAt c.params c.walk i) ∧ k < 2 ∧
    a = maskAddr c.params (zbAddr c.regs (fbIndex c.regs (pixelColumn c i j) i) + k)

/-- Byte `a` lies among the bytes of scanline `i` that the copy renderer walks, `fbptr` to the last byte of the pixel at
`lx` (R750). -/
def copyByte (c : Ctx) (i : Int) (a : Nat) : Prop :=
  ∃ k : Nat, (k : Int) < lineLength c.walk.flip (spanAt c.params c.walk i) * copyBpp c.regs.fbSize + copyBpp c.regs.fbSize ∧
    a = maskAddr c.params ((copySetup c i).fbptr + (if c.walk.flip then (k : Int) else -k))

/-- Scanline `i` may store to byte `a` under the cycle type selected (R703, R706, R740, R750). -/
def lineStores (c : Ctx) (i : Int) (a : Nat) : Prop :=
  match c.regs.om.cycleType with
  | .oneCycle => colourByte c i a ∨ (c.regs.om.zUpdateEn = true ∧ depthByte c i a)
  | .twoCycle => colourByte c i a ∨ (c.regs.om.zUpdateEn = true ∧ depthByte c i a)
  | .copy => copyByte c i a
  | .fill => colourByte c i a

/-- A primitive may store to byte `a`: some valid scanline of its range may (R623, R700). -/
def primitiveStores (c : Ctx) (P : EdgeParams) (a : Nat) : Prop :=
  ∃ n : Nat, n < (renderRange c P).2 ∧ (spanAt c.params c.walk ((renderRange c P).1 + n)).validline = true ∧
    lineStores c ((renderRange c P).1 + n) a

/-! ## When a command completes -/

/-- A host access completes: all its bytes lie below RDRAM_SIZE, or accesses beyond are ignored (R209). -/
def accessOk (P : Params) (a : Int) (n : Nat) : Prop := P.oobMode = .ignore ∨ outOfRange P a n = none

/-- The colour access of pixel `j` of scanline `i` completes (R710). -/
def colourOk (c : Ctx) (i : Int) (j : Nat) : Prop :=
  accessOk c.params (fbPixelAddr c.regs (fbIndex c.regs (pixelColumn c i j) i)) (pixelBytes c.regs.fbSize)

/-- The depth access of pixel `j` of scanline `i` completes, where there is one (R1009). -/
def depthOk (c : Ctx) (i : Int) (j : Nat) : Prop :=
  c.regs.om.zCompareEn = true ∨ c.regs.om.zUpdateEn = true →
    accessOk c.params (zbAddr c.regs (fbIndex c.regs (pixelColumn c i j) i)) 2

/-- A 1-cycle or 2-cycle scanline completes: its accesses do, no texel of an unknown format is set to fault (R823), and no 4-bit
pixel is (R716). -/
def pixelsOk (c : Ctx) (i : Int) : Prop :=
  c.params.unknownTexel ≠ .fault ∧ (c.regs.fbSize = .b4 → c.params.fb4Mode = .zeroByte) ∧
    ∀ j : Nat, (j : Int) ≤ lineLength c.walk.flip (spanAt c.params c.walk i) → colourOk c i j ∧ depthOk c i j

/-- A copy fetch has a value: it is of one size, or COPY_FETCH is free, or the target needs none (R750, R751). Without tex_lod_en
it reads the primitive's own tile (R850, R854). -/
def copyOk (c : Ctx) : Prop :=
  c.params.copyFetch = .free ∨ c.regs.fbSize = .b4 ∨ c.regs.fbSize = .b32 ∨
    ∀ n, c.regs.om.texLodEn = true ∨ n = c.walk.primTile → copyMismatch c (c.regs.getTile n) = false

/-- A valid scanline completes under the cycle type selected (R703, R706, R740, R750). -/
def lineOk (c : Ctx) (i : Int) : Prop :=
  match c.regs.om.cycleType with
  | .oneCycle => pixelsOk c i
  | .twoCycle => pixelsOk c i
  | .copy => copyOk c ∧ ∀ k : Nat,
      (k : Int) < lineLength c.walk.flip (spanAt c.params c.walk i) * copyBpp c.regs.fbSize + copyBpp c.regs.fbSize →
        accessOk c.params ((copySetup c i).fbptr + (if c.walk.flip then (k : Int) else -k)) 1
  | .fill => ∀ j : Nat, (j : Int) ≤ lineLength c.walk.flip (spanAt c.params c.walk i) → colourOk c i j

/-- A primitive meets none of the model faults of R209, R716, R751 and R823 on the scanlines it draws. -/
def canDraw (s : State) (P : EdgeParams) : Prop :=
  let c := edgeWalk s.toCtx P
  ∀ n : Nat, n < (renderRange c P).2 → (spanAt c.params c.walk ((renderRange c P).1 + n)).validline = true →
    lineOk c ((renderRange c P).1 + n)

/-! ## The sink and the command source -/

/-- A diagnostic that reports a crash condition (R1101, R1105). -/
def Diag.isCrash : Diag → Bool
  | .crash _ => true
  | .unassignedOpcode _ => false
  | .unknownTextureFormat => false
  | .syncFull => false

/-- The words at the cursor begin with `ws` (R301). -/
def State.ahead (s : State) (ws : List Word64) : Prop := ws <+: s.cmds.drop s.cmdIndex

end Sys2Proof.Machine
end

