-- ==== Sys2Proof/Certificates/Slice0/Obligations.lean ====
section
/-! DEFINITION. The statements for the provers. Each says which rule of the spec it formalises, and where it rests on a choice of
the model it names the log entry. Names: `s` the state before, `t` the state after; `w` the first word of a command. -/

section
open Sys2Proof Sys2Proof.Machine Sys2Proof.Config

/-! ## Encoding and fetching -/

/-- R301: the opcode is bits 61:56 of the word at the cursor, the cursor moves by its LEN, then the command runs; with fewer
words left the engine has no step (the model's named stop `stuck`, log entry 4). -/
def Obligations.StepRunsDecodedCommand : Prop :=
  ∀ s : State,
    (∀ (w : Word64) (rest : List Word64), s.cmds.drop s.cmdIndex = w :: rest →
      (cmdLen (w.extractLsb' 56 6) ≤ rest.length + 1 →
        step s = exec (decodeCmd (w :: rest)) { s with cmdIndex := s.cmdIndex + cmdLen (w.extractLsb' 56 6) }) ∧
      (rest.length + 1 < cmdLen (w.extractLsb' 56 6) → step s = .fault .stuck)) ∧
    (s.cmds.drop s.cmdIndex = [] → step s = .fault .stuck)

/-- R302: the length of every opcode, as a table and by its bits. -/
def Obligations.CommandLengths : Prop :=
  cmdLen 0x08 = 4 ∧ cmdLen 0x09 = 6 ∧ cmdLen 0x0A = 12 ∧ cmdLen 0x0B = 14 ∧ cmdLen 0x0C = 12 ∧ cmdLen 0x0D = 14 ∧
    cmdLen 0x0E = 20 ∧ cmdLen 0x0F = 22 ∧ cmdLen 0x24 = 2 ∧ cmdLen 0x25 = 2 ∧
    (∀ op : BitVec 6, ¬(0x08 ≤ op.toNat ∧ op.toNat ≤ 0x0F) → op ≠ 0x24 → op ≠ 0x25 → cmdLen op = 1) ∧
    (∀ op : BitVec 6, 0x08 ≤ op.toNat ∧ op.toNat ≤ 0x0F →
      cmdLen op = 4 + (if op.getLsbD 2 then 8 else 0) + (if op.getLsbD 1 then 8 else 0) + (if op.getLsbD 0 then 2 else 0))

/-- Decoding an encoded command gives it back, every operand at every value, whatever words follow (R300, R302, R304, R306,
R310 to R321). -/
def Obligations.DecodeEncodeAgree : Prop :=
  ∀ (i : Instr) (rest : List Word64), i.wf = true → decode (encode i ++ rest) = .ok (i, cmdLen i.op)

/-- Every list of words that is long enough decodes (no opcode is illegal, R306), to a well-formed command of the opcode in
bits 61:56, of that opcode's length (R300, R302, R305). -/
def Obligations.EveryWordDecodes : Prop :=
  ∀ (w : Word64) (rest : List Word64), cmdLen (w.extractLsb' 56 6) ≤ rest.length + 1 →
    ∃ i : Instr, decode (w :: rest) = .ok (i, cmdLen (w.extractLsb' 56 6)) ∧ i.wf = true ∧ i.op = w.extractLsb' 56 6

/-- R307 for the one-word commands, and R300's bits 63:62: two words that agree on the opcode and on the fields the layout
names decode to the same command. -/
def Obligations.UnnamedBitsAreIgnored : Prop :=
  ∀ (w w' : Word64) (rest rest' : List Word64), cmdLen (w.extractLsb' 56 6) = 1 →
    (∀ f ∈ fld 56 (decodeCmd (w :: rest)).op :: (decodeCmd (w :: rest)).fields,
      w'.extractLsb' f.lo f.len = w.extractLsb' f.lo f.len) →
    decodeCmd (w' :: rest') = decodeCmd (w :: rest)

/-- R1207: an engine with too few words has no step; once the host has supplied the rest of the command, the next step runs
it, from the state the engine had. That "no step" is the fault `stuck`, and that the host supplies words by `State.supply`, is the
model's choice (log entry 4). -/
def Obligations.SuppliedWordsResumeTheEngine : Prop :=
  ∀ (s : State) (i : Instr) (ws : List Word64), i.wf = true → s.cmdIndex ≤ s.cmds.length → ws ≠ [] →
    s.cmds.drop s.cmdIndex ++ ws = encode i →
    step s = .fault .stuck ∧
      step (s.supply ws) = exec i { s with cmds := s.cmds ++ ws, cmdIndex := s.cmdIndex + cmdLen i.op }

/-- Words written out from the layouts of section 3 of 30_encoding.md, of every family: those of 95_test_vectors.md section 2,
and a load, a triangle and a texture rectangle written from R315, R317, R318 and R321. -/
def Obligations.SampleWordsDecode : Prop :=
  decode [0x00FFFFFFFFFFFFFF] = .ok (.nop, 1) ∧
    decode [0x2900000000000000] = .ok (.syncFull, 1) ∧
    decode [0x3100000000000000] = .ok (.unassigned31, 1) ∧
    decode [0x38000000FF804020] = .ok (.setFogColor { r := 255, g := 128, b := 64, a := 32 }, 1) ∧
    decode [0x2A10010080108010] = .ok (.setKeyGb 0x100 0x100 0x80 0x10 0x80 0x10, 1) ∧
    decode [0x2D000000005003C0] = .ok (.setScissor { xh := 0, yh := 0, xl := 1280, yl := 960 } false false, 1) ∧
    decode [0x3F10013F00100000] =
      .ok (.setColorImage { format := 0, size := .b16, width := 320, address := 0x100000 }, 1) ∧
    decode [0x320000000007C07C] = .ok (.setTileSize 0 { sl := 0, tl := 0, sh := 124, th := 124 }, 1) ∧
    decode [0x340000000707C07C] = .ok (.loadTile 7 { sl := 0, tl := 0, sh := 124, th := 124 }, 1) ∧
    decode [0x3604C04C00028028] = .ok (.fillRect { xl := 76, yl := 76, xh := 40, yh := 40 }, 1) ∧
    decode [0x2404C04C03028028, 0x0020FFE00400FC00] =
      .ok (.texRect { xl := 76, yl := 76, xh := 40, yh := 40 } 3 { s := 0x20, t := 0xFFE0, dsdx := 0x400, dtdy := 0xFC00 }, 2) ∧
    decode [0x09953FFF012C00C8, 0x0FFF00003FFF0000, 0x0000800000000001, 0x0000900000000002, 0x123456789ABCDEF0,
        0x0000000100000002] =
      .ok (.triFillZ
        { flip := true, maxLevel := 2, tile := 5, yl := 0x3FFF, ym := 300, yh := 200, xl := 0xFFF0000, dxldy := 0x3FFF0000,
          xh := 0x8000, dxhdy := 1, xm := 0x9000, dxmdy := 2 }
        { v := 0x12345678, dx := 0x9ABCDEF0, de := 1, dy := 2 }, 6)

/-! ## The control-plane commands: where each field comes from, and the whole next state -/

/-- R410, R311, and the codes of the enumerated fields (R105, R116). -/
def Obligations.SetOtherModesWritesEveryField : Prop :=
  (∀ (w : Word64) (rest : List Word64), w.extractLsb' 56 6 = 0x2F →
    decodeCmd (w :: rest) = .setOtherModes
      { atomicPrim := w.getLsbD 55, cycleType := .ofBits (w.extractLsb' 52 2), perspTexEn := w.getLsbD 51,
        detailTexEn := w.getLsbD 50, sharpenTexEn := w.getLsbD 49, texLodEn := w.getLsbD 48, enTlut := w.getLsbD 47,
        tlutType := w.getLsbD 46, sampleType := w.getLsbD 45, midTexel := w.getLsbD 44, biLerp0 := w.getLsbD 43,
        biLerp1 := w.getLsbD 42, convertOne := w.getLsbD 41, keyEn := w.getLsbD 40,
        rgbDitherSel := .ofBits (w.extractLsb' 38 2), alphaDitherSel := .ofBits (w.extractLsb' 36 2),
        blend0 := { m1a := w.extractLsb' 30 2, m1b := w.extractLsb' 26 2, m2a := w.extractLsb' 22 2, m2b := w.extractLsb' 18 2 },
        blend1 := { m1a := w.extractLsb' 28 2, m1b := w.extractLsb' 24 2, m2a := w.extractLsb' 20 2, m2b := w.extractLsb' 16 2 },
        forceBlend := w.getLsbD 14, alphaCvgSelect := w.getLsbD 13, cvgTimesAlpha := w.getLsbD 12,
        zMode := .ofBits (w.extractLsb' 10 2), cvgDest := .ofBits (w.extractLsb' 8 2), colorOnCvg := w.getLsbD 7,
        imageReadEn := w.getLsbD 6, zUpdateEn := w.getLsbD 5, zCompareEn := w.getLsbD 4, antialiasEn := w.getLsbD 3,
        zSourceSel := w.getLsbD 2, ditherAlphaEn := w.getLsbD 1, alphaCompareEn := w.getLsbD 0 }) ∧
    (∀ (m : OtherModes) (s : State), exec (.setOtherModes m) s = .next { s with regs := { s.regs with om := m } }) ∧
    [CycleType.ofBits 0, .ofBits 1, .ofBits 2, .ofBits 3] = [.oneCycle, .twoCycle, .copy, .fill] ∧
      [PixSize.ofBits 0, .ofBits 1, .ofBits 2, .ofBits 3] = [.b4, .b8, .b16, .b32] ∧
      [ZMode.ofBits 0, .ofBits 1, .ofBits 2, .ofBits 3] = [.opaqueZ, .interpenetrating, .transparent, .decal] ∧
      [CvgDest.ofBits 0, .ofBits 1, .ofBits 2, .ofBits 3] = [.clamp, .wrap, .zap, .save] ∧
      [RgbDitherSel.ofBits 0, .ofBits 1, .ofBits 2, .ofBits 3] = [.magic, .bayer, .noise, .none] ∧
      [AlphaDitherSel.ofBits 0, .ofBits 1, .ofBits 2, .ofBits 3] = [.pattern, .inverted, .noise, .none]

/-- R411, R312. -/
def Obligations.SetCombineWritesEverySelector : Prop :=
  (∀ (w : Word64) (rest : List Word64), w.extractLsb' 56 6 = 0x3C →
    decodeCmd (w :: rest) = .setCombine
      { c0 := { subArgb := w.extractLsb' 52 4, subBrgb := w.extractLsb' 28 4, mulRgb := w.extractLsb' 47 5,
                addRgb := w.extractLsb' 15 3, subAa := w.extractLsb' 44 3, subBa := w.extractLsb' 12 3,
                mulA := w.extractLsb' 41 3, addA := w.extractLsb' 9 3 },
        c1 := { subArgb := w.extractLsb' 37 4, subBrgb := w.extractLsb' 24 4, mulRgb := w.extractLsb' 32 5,
                addRgb := w.extractLsb' 6 3, subAa := w.extractLsb' 21 3, subBa := w.extractLsb' 3 3,
                mulA := w.extractLsb' 18 3, addA := w.extractLsb' 0 3 } }) ∧
    ∀ (m : CombineMode) (s : State), exec (.setCombine m) s = .next { s with regs := { s.regs with cc := m } }

/-- R412 to R416, R310: the four colours, the primitive's LOD values, the fill word. -/
def Obligations.ColourCommandsWriteTheirRegisters : Prop :=
  (∀ (w : Word64) (rest : List Word64),
    let c : Rgba8 := { r := w.extractLsb' 24 8, g := w.extractLsb' 16 8, b := w.extractLsb' 8 8, a := w.extractLsb' 0 8 }
    (w.extractLsb' 56 6 = 0x38 → decodeCmd (w :: rest) = .setFogColor c) ∧
      (w.extractLsb' 56 6 = 0x39 → decodeCmd (w :: rest) = .setBlendColor c) ∧
      (w.extractLsb' 56 6 = 0x3A → decodeCmd (w :: rest) = .setPrimColor (w.extractLsb' 40 5) (w.extractLsb' 32 8) c) ∧
      (w.extractLsb' 56 6 = 0x3B → decodeCmd (w :: rest) = .setEnvColor c) ∧
      (w.extractLsb' 56 6 = 0x37 → decodeCmd (w :: rest) = .setFillColor (w.extractLsb' 0 32))) ∧
    ∀ (s : State) (c : Rgba8) (lodMin : BitVec 5) (lodFrac : BitVec 8) (f : BitVec 32),
      exec (.setFogColor c) s = .next { s with regs := { s.regs with fogColor := c } } ∧
        exec (.setBlendColor c) s = .next { s with regs := { s.regs with blendColor := c } } ∧
        exec (.setPrimColor lodMin lodFrac c) s =
          .next { s with regs := { s.regs with primLodMin := lodMin, primLodFrac := lodFrac, primColor := c } } ∧
        exec (.setEnvColor c) s = .next { s with regs := { s.regs with envColor := c } } ∧
        exec (.setFillColor f) s = .next { s with regs := { s.regs with fillColor := f } }

/-- R417, R418, R419, R420, R316: SET_KEY_R and SET_KEY_GB leave each other's channels, bit 31 of SET_PRIM_DEPTH's word is not
read. -/
def Obligations.KeyConvertAndDepthCommandsWriteTheirRegisters : Prop :=
  ((∀ (w : Word64) (rest : List Word64),
    (w.extractLsb' 56 6 = 0x2B →
      decodeCmd (w :: rest) = .setKeyR (w.extractLsb' 16 12) (w.extractLsb' 8 8) (w.extractLsb' 0 8)) ∧
      (w.extractLsb' 56 6 = 0x2A →
        decodeCmd (w :: rest) = .setKeyGb (w.extractLsb' 44 12) (w.extractLsb' 32 12) (w.extractLsb' 24 8)
          (w.extractLsb' 16 8) (w.extractLsb' 8 8) (w.extractLsb' 0 8))) ∧
    ∀ (s : State) (wr wg wb : BitVec 12) (cr sr cg sg cb sb : BitVec 8),
      exec (.setKeyR wr cr sr) s =
          .next { s with regs := { s.regs with
            keyWidth := { s.regs.keyWidth with r := wr }, keyCenter := { s.regs.keyCenter with r := cr },
            keyScale := { s.regs.keyScale with r := sr } } } ∧
        exec (.setKeyGb wg wb cg sg cb sb) s =
          .next { s with regs := { s.regs with
            keyWidth := { s.regs.keyWidth with g := wg, b := wb }, keyCenter := { s.regs.keyCenter with g := cg, b := cb },
            keyScale := { s.regs.keyScale with g := sg, b := sb } } }) ∧
  ((∀ (w : Word64) (rest : List Word64),
    (w.extractLsb' 56 6 = 0x2C →
      decodeCmd (w :: rest) = .setConvert (w.extractLsb' 45 9) (w.extractLsb' 36 9) (w.extractLsb' 27 9)
        (w.extractLsb' 18 9) (w.extractLsb' 9 9) (w.extractLsb' 0 9)) ∧
      (w.extractLsb' 56 6 = 0x2E → decodeCmd (w :: rest) = .setPrimDepth (w.extractLsb' 16 15) (w.extractLsb' 0 16))) ∧
    ∀ (s : State) (k0 k1 k2 k3 k4 k5 : BitVec 9) (z : BitVec 15) (dz : BitVec 16),
      exec (.setConvert k0 k1 k2 k3 k4 k5) s =
          .next { s with regs := { s.regs with k0 := k0, k1 := k1, k2 := k2, k3 := k3, k4 := k4, k5 := k5 } } ∧
        exec (.setPrimDepth z dz) s = .next { s with regs := { s.regs with primZ := z, primDz := dz } })

/-- R421 (its corner case is EmptyRangeDrawsNothing's), R316. -/
def Obligations.SetScissorWritesTheClip : Prop :=
  (∀ (w : Word64) (rest : List Word64), w.extractLsb' 56 6 = 0x2D →
    decodeCmd (w :: rest) = .setScissor
      { xh := w.extractLsb' 44 12, yh := w.extractLsb' 32 12, xl := w.extractLsb' 12 12, yl := w.extractLsb' 0 12 }
      (w.getLsbD 25) (w.getLsbD 24)) ∧
    ∀ (s : State) (r : Rect) (f k : Bool),
      exec (.setScissor r f k) s = .next { s with regs := { s.regs with clip := r, scField := f, scKeepOdd := k } }

/-- R422, R423, R424, R313: the width is the field plus one, the address is masked, and two of the three clear the crash
latch under CRASH_CLEARED_BY_SET_IMAGE. -/
def Obligations.ImageCommandsWriteTheirDescriptors : Prop :=
  (∀ (w : Word64) (rest : List Word64),
    let d : ImageDesc :=
      { format := w.extractLsb' 53 3, size := .ofBits (w.extractLsb' 51 2),
        width := BitVec.ofNat 11 ((w.extractLsb' 32 10).toNat + 1), address := w.extractLsb' 0 26 }
    (w.extractLsb' 56 6 = 0x3F → decodeCmd (w :: rest) = .setColorImage d) ∧
      (w.extractLsb' 56 6 = 0x3D → decodeCmd (w :: rest) = .setTextureImage d) ∧
      (w.extractLsb' 56 6 = 0x3E → decodeCmd (w :: rest) = .setMaskImage (w.extractLsb' 0 26))) ∧
    ∀ (s : State) (d : ImageDesc) (a : BitVec 26),
      exec (.setColorImage d) s =
          .next { s with
            regs := { s.regs with fbFormat := d.format, fbSize := d.size, fbWidth := d.width,
                                  fbAddress := BitVec.ofNat 26 (d.address.toNat &&& s.params.addrMask) }
            pixel := { s.pixel with crashed := s.pixel.crashed && !s.params.crashClearedBySetImage } } ∧
        exec (.setTextureImage d) s =
          .next { s with
            regs := { s.regs with tiFormat := d.format, tiSize := d.size, tiWidth := d.width,
                                  tiAddress := BitVec.ofNat 26 (d.address.toNat &&& s.params.addrMask) } } ∧
        exec (.setMaskImage a) s =
          .next { s with
            regs := { s.regs with zbAddress := BitVec.ofNat 26 (a.toNat &&& s.params.addrMask) }
            pixel := { s.pixel with crashed := s.pixel.crashed && !s.params.crashClearedBySetImage } }

/-- R425, R426, R314: SET_TILE leaves the bounds, SET_TILE_SIZE leaves the rest, and every other tile stays. -/
def Obligations.TileCommandsWriteOneTile : Prop :=
  (∀ (w : Word64) (rest : List Word64),
    (w.extractLsb' 56 6 = 0x35 →
      decodeCmd (w :: rest) = .setTile (w.extractLsb' 24 3)
        { format := w.extractLsb' 53 3, size := .ofBits (w.extractLsb' 51 2), line := w.extractLsb' 41 9,
          tmem := w.extractLsb' 32 9, palette := w.extractLsb' 20 4, ct := w.getLsbD 19, mt := w.getLsbD 18,
          maskT := w.extractLsb' 14 4, shiftT := w.extractLsb' 10 4, cs := w.getLsbD 9, ms := w.getLsbD 8,
          maskS := w.extractLsb' 4 4, shiftS := w.extractLsb' 0 4 }) ∧
      (w.extractLsb' 56 6 = 0x32 →
        decodeCmd (w :: rest) = .setTileSize (w.extractLsb' 24 3)
          { sl := w.extractLsb' 44 12, tl := w.extractLsb' 32 12, sh := w.extractLsb' 12 12, th := w.extractLsb' 0 12 })) ∧
    ∀ (s : State) (n : BitVec 3) (m : TileMode) (b : TileBounds),
      (∃ r : Regs, exec (.setTile n m) s = .next { s with regs := r } ∧ r = { s.regs with tile := r.tile } ∧
          (r.getTile n).toTileMode = m ∧ (r.getTile n).toTileBounds = (s.regs.getTile n).toTileBounds ∧
          ∀ k, k ≠ n → r.getTile k = s.regs.getTile k) ∧
        ∃ r : Regs, exec (.setTileSize n b) s = .next { s with regs := r } ∧ r = { s.regs with tile := r.tile } ∧
          (r.getTile n).toTileBounds = b ∧ (r.getTile n).toTileMode = (s.regs.getTile n).toTileMode ∧
          ∀ k, k ≠ n → r.getTile k = s.regs.getTile k

/-- R430 to R434: the three other syncs and NOP change nothing at all, SYNC_FULL adds its event to the sink. -/
def Obligations.SyncsAndNopChangeNothing : Prop :=
  (∀ (w : Word64) (rest : List Word64),
    (w.extractLsb' 56 6 = 0x29 → decodeCmd (w :: rest) = .syncFull) ∧
      (w.extractLsb' 56 6 = 0x27 → decodeCmd (w :: rest) = .syncPipe) ∧
      (w.extractLsb' 56 6 = 0x28 → decodeCmd (w :: rest) = .syncTile) ∧
      (w.extractLsb' 56 6 = 0x26 → decodeCmd (w :: rest) = .syncLoad) ∧
      (w.extractLsb' 56 6 = 0x00 → decodeCmd (w :: rest) = .nop)) ∧
    ∀ s : State,
      exec .syncFull s = .next { s with pixel := { s.pixel with diag := s.pixel.diag ++ [.syncFull] } } ∧
        exec .syncPipe s = .next s ∧ exec .syncTile s = .next s ∧ exec .syncLoad s = .next s ∧ exec .nop s = .next s

/-- R306, R435: each of the 28 unassigned opcodes is one word, changes no engine state and adds its warning to the sink, on
every occurrence. -/
def Obligations.UnassignedOpcodesWarn : Prop :=
  (∀ p ∈ [((0x01 : BitVec 6), Instr.unassigned01), (0x02, .unassigned02), (0x03, .unassigned03), (0x04, .unassigned04),
        (0x05, .unassigned05), (0x06, .unassigned06), (0x07, .unassigned07)] ++
      [(0x10, .unassigned10), (0x11, .unassigned11), (0x12, .unassigned12), (0x13, .unassigned13), (0x14, .unassigned14),
        (0x15, .unassigned15), (0x16, .unassigned16), (0x17, .unassigned17), (0x18, .unassigned18), (0x19, .unassigned19)] ++
      [(0x1A, .unassigned1A), (0x1B, .unassigned1B), (0x1C, .unassigned1C), (0x1D, .unassigned1D), (0x1E, .unassigned1E),
        (0x1F, .unassigned1F), (0x20, .unassigned20), (0x21, .unassigned21), (0x22, .unassigned22), (0x23, .unassigned23),
        (0x31, .unassigned31)],
    (∀ (w : Word64) (rest : List Word64), w.extractLsb' 56 6 = p.1 → decode (w :: rest) = .ok (p.2, 1)) ∧
      ∀ s : State,
        exec p.2 s = .next { s with pixel := { s.pixel with diag := s.pixel.diag ++ [.unassignedOpcode p.1] } }) ∧
    (Diag.unassignedOpcode 0x1A).text = "unassigned opcode 0x1A"

/-! ## Errors: the crash latch (60_exceptions.md) -/

/-- R1105: a condition warns once, is then in the warned set, and the latch is set every time; other names stay as they
were. The codes are R1101's. -/
def Obligations.CrashLatchWarnsOnce : Prop :=
  ∀ (n : CrashName) (p : Pixel),
    (p.warned.has n = false →
      crashLatch n p = { p with diag := p.diag ++ [.crash n], warned := p.warned.add n, crashed := true }) ∧
      (p.warned.has n = true → crashLatch n p = { p with crashed := true }) ∧
      (∀ m : CrashName, (p.warned.add n).has m = (p.warned.has m || m == n)) ∧
      (Diag.crash n).text = "crash: " ++ n.name ∧
      n.name =
        match n with
        | .fill4BitTarget => "fill 4-bit target"
        | .fillModeReadDepthBits => "fill mode read/depth bits"
        | .copy32BitTarget => "copy 32-bit target"

/-- R1106: with the latch set the eleven rendering commands (TRI_FILL, TRI_FILL_Z, TRI_TEX, TRI_TEX_Z, TRI_SHADE,
TRI_SHADE_Z, TRI_SHADE_TEX, TRI_SHADE_TEX_Z, TEX_RECT, TEX_RECT_FLIP, FILL_RECT) do nothing at all, and every other command does
what it does with the latch clear. -/
def Obligations.LatchStopsRenderingAlone : Prop :=
  ∀ (i : Instr) (s : State),
    (isRendering i = true → s.pixel.crashed = true → exec i s = .next s) ∧
      (isRendering i = false →
        match exec i { s with pixel := { s.pixel with crashed := false } } with
        | .next t =>
          ∃ b, exec i { s with pixel := { s.pixel with crashed := true } } =
            .next { t with pixel := { t.pixel with crashed := b } }
        | .fault f => exec i { s with pixel := { s.pixel with crashed := true } } = .fault f
        | .refused _ => False)

/-- R740 and R754, with R1104: a fill primitive on a 4-bit image and a copy primitive on a 32-bit one latch their crash and
touch no memory, whatever the rendering command. Whether the fill crash needs a scanline that the scissor lets through (R1204) or
not (R740) is the model's parameter `fill4Check` (log entry 10): both readings are stated. -/
def Obligations.IllegalTargetsCrash : Prop :=
  ∀ (i : Instr) (P : EdgeParams) (s : State) (n : CrashName), edgeParamsOf s.regs.om.cycleType i = some P →
    s.pixel.crashed = false →
    let c := edgeWalk s.toCtx P
    let drawn := ∃ k < (renderRange c P).2, (spanAt c.params c.walk ((renderRange c P).1 + k)).validline = true
    (s.regs.om.cycleType = .fill ∧ s.regs.fbSize = .b4 ∧ n = .fill4BitTarget) ∨
      (s.regs.om.cycleType = .copy ∧ s.regs.fbSize = .b32 ∧ n = .copy32BitTarget) →
    ∃ t : State, exec i s = .next t ∧ t.pixel.host = s.pixel.host ∧ t.tmem = s.tmem ∧ t.regs = s.regs ∧ t.cmds = s.cmds ∧
      t.cmdIndex = s.cmdIndex ∧
      (s.regs.om.cycleType = .copy ∨ s.params.fill4Check = .always ∨ drawn →
        t.pixel.crashed = true ∧ t.pixel.warned = s.pixel.warned.add n ∧
          t.pixel.diag = s.pixel.diag ++ (if s.pixel.warned.has n then [] else [.crash n])) ∧
      (s.regs.om.cycleType = .fill → s.params.fill4Check = .withScanline → ¬drawn →
        t.pixel.crashed = false ∧ t.pixel.warned = s.pixel.warned ∧ t.pixel.diag = s.pixel.diag)

/-- R740 under FILL_KILL_MODE's default: a fill primitive with image read or depth compare on writes nothing, and sets the latch
exactly if one of its valid scanlines has a pixel. -/
def Obligations.FastKillDrawsNothing : Prop :=
  ∀ (i : Instr) (P : EdgeParams) (s t : State), edgeParamsOf s.regs.om.cycleType i = some P → s.pixel.crashed = false →
    s.regs.om.cycleType = .fill → s.regs.fbSize ≠ .b4 → s.params.fillKillMode = .standard →
    s.regs.om.imageReadEn = true ∨ s.regs.om.zCompareEn = true → exec i s = .next t →
    t.pixel.host = s.pixel.host ∧
      (t.pixel.crashed = true ↔
        ∃ k < (renderRange t.toCtx P).2, (spanAt t.params t.walk ((renderRange t.toCtx P).1 + k)).validline = true ∧
          0 ≤ lineLength t.walk.flip (spanAt t.params t.walk ((renderRange t.toCtx P).1 + k)))

/-- R1107: of all the steps only SET_COLOR_IMAGE and SET_MASK_IMAGE clear the latch, and only under
CRASH_CLEARED_BY_SET_IMAGE; no step takes a name out of the warned set; host reset clears both. -/
def Obligations.OnlyImageCommandsClearTheLatch : Prop :=
  (∀ (i : Instr) (s t : State), exec i s = .next t → s.pixel.crashed = true → t.pixel.crashed = false →
    s.params.crashClearedBySetImage = true ∧ ((∃ d, i = .setColorImage d) ∨ ∃ a, i = .setMaskImage a)) ∧
    (∀ (s : State) (d : ImageDesc) (a : BitVec 26) (t : State), s.params.crashClearedBySetImage = true →
      exec (.setColorImage d) s = .next t ∨ exec (.setMaskImage a) s = .next t → t.pixel.crashed = false) ∧
    (∀ (i : Instr) (s t : State) (n : CrashName), exec i s = .next t → s.pixel.warned.has n = true →
      t.pixel.warned.has n = true) ∧
    ∀ (s : State) (ws : List Word64) (n : CrashName),
      (s.hostReset ws).pixel.crashed = false ∧ (s.hostReset ws).pixel.warned.has n = false

/-- R1102: only a rendering command, in fill or copy cycle type, sets the latch or adds to the warned set. -/
def Obligations.OnlyRenderingCrashes : Prop :=
  ∀ (i : Instr) (s t : State), exec i s = .next t →
    (s.pixel.crashed = false ∧ t.pixel.crashed = true) ∨ t.pixel.warned ≠ s.pixel.warned →
    isRendering i = true ∧ (s.regs.om.cycleType = .fill ∨ s.regs.om.cycleType = .copy)

/-- R1108, R1103: a command only appends to the sink, and at most one crash report; the count of free values taken never
falls (log entry 3). -/
def Obligations.DiagnosticsOnlyGrow : Prop :=
  ∀ (i : Instr) (s t : State), exec i s = .next t →
    s.pixel.draws ≤ t.pixel.draws ∧
      ∃ l : List Diag, t.pixel.diag = s.pixel.diag ++ l ∧
        (l.filter Diag.isCrash).length ≤ 1

/-! ## Which command may write what -/

/-- R103, R1120: every step leaves the command words and the parameters, and moves the cursor by the command's own length. -/
def Obligations.CursorMovesByCommandLength : Prop :=
  ∀ (s t : State), step s = .next t →
    t.cmds = s.cmds ∧ t.params = s.params ∧
      ∃ w : Word64, s.cmds[s.cmdIndex]? = some w ∧ t.cmdIndex = s.cmdIndex + cmdLen (w.extractLsb' 56 6) ∧
        t.cmdIndex ≤ s.cmds.length

/-- R119, R259: TMEM is changed by load commands alone; R201: host memory by rendering commands alone. -/
def Obligations.OnlyLoadsAndRenderingTouchMemory : Prop :=
  ∀ (i : Instr) (s t : State), exec i s = .next t →
    (t.tmem ≠ s.tmem → isLoad i = true) ∧ (t.pixel.host ≠ s.pixel.host → isRendering i = true)

/-- R105 to R115, R117: each register is written by its own commands alone. -/
def Obligations.RegistersHaveTheirWriters : Prop :=
  ∀ (i : Instr) (s t : State), exec i s = .next t →
    ((t.regs.om ≠ s.regs.om → ∃ m, i = .setOtherModes m) ∧
      (t.regs.cc ≠ s.regs.cc → ∃ m, i = .setCombine m) ∧
      (t.regs.fogColor ≠ s.regs.fogColor → ∃ c, i = .setFogColor c) ∧
      (t.regs.blendColor ≠ s.regs.blendColor → ∃ c, i = .setBlendColor c) ∧
      (t.regs.primColor ≠ s.regs.primColor ∨ t.regs.primLodMin ≠ s.regs.primLodMin ∨
          t.regs.primLodFrac ≠ s.regs.primLodFrac → ∃ l f c, i = .setPrimColor l f c) ∧
      (t.regs.envColor ≠ s.regs.envColor → ∃ c, i = .setEnvColor c) ∧
      (t.regs.fillColor ≠ s.regs.fillColor → ∃ c, i = .setFillColor c)) ∧
    ((t.regs.keyWidth.r ≠ s.regs.keyWidth.r ∨ t.regs.keyCenter.r ≠ s.regs.keyCenter.r ∨
          t.regs.keyScale.r ≠ s.regs.keyScale.r → ∃ w c k, i = .setKeyR w c k) ∧
      (t.regs.keyWidth.g ≠ s.regs.keyWidth.g ∨ t.regs.keyWidth.b ≠ s.regs.keyWidth.b ∨
          t.regs.keyCenter.g ≠ s.regs.keyCenter.g ∨ t.regs.keyCenter.b ≠ s.regs.keyCenter.b ∨
          t.regs.keyScale.g ≠ s.regs.keyScale.g ∨ t.regs.keyScale.b ≠ s.regs.keyScale.b →
        ∃ wg wb cg kg cb kb, i = .setKeyGb wg wb cg kg cb kb) ∧
      (t.regs.k0 ≠ s.regs.k0 ∨ t.regs.k1 ≠ s.regs.k1 ∨ t.regs.k2 ≠ s.regs.k2 ∨ t.regs.k3 ≠ s.regs.k3 ∨
          t.regs.k4 ≠ s.regs.k4 ∨ t.regs.k5 ≠ s.regs.k5 → ∃ k0 k1 k2 k3 k4 k5, i = .setConvert k0 k1 k2 k3 k4 k5) ∧
      (t.regs.primZ ≠ s.regs.primZ ∨ t.regs.primDz ≠ s.regs.primDz → ∃ z dz, i = .setPrimDepth z dz) ∧
      (t.regs.clip ≠ s.regs.clip ∨ t.regs.scField ≠ s.regs.scField ∨ t.regs.scKeepOdd ≠ s.regs.scKeepOdd →
        ∃ r f k, i = .setScissor r f k)) ∧
    ((t.regs.fbFormat ≠ s.regs.fbFormat ∨ t.regs.fbSize ≠ s.regs.fbSize ∨ t.regs.fbWidth ≠ s.regs.fbWidth ∨
          t.regs.fbAddress ≠ s.regs.fbAddress → ∃ d, i = .setColorImage d) ∧
      (t.regs.tiFormat ≠ s.regs.tiFormat ∨ t.regs.tiSize ≠ s.regs.tiSize ∨ t.regs.tiWidth ≠ s.regs.tiWidth ∨
          t.regs.tiAddress ≠ s.regs.tiAddress → ∃ d, i = .setTextureImage d) ∧
      (t.regs.zbAddress ≠ s.regs.zbAddress → ∃ a, i = .setMaskImage a)) ∧
    ∀ n : BitVec 3,
      ((t.regs.getTile n).toTileMode ≠ (s.regs.getTile n).toTileMode → ∃ m, i = .setTile n m) ∧
        ((t.regs.getTile n).toTileBounds ≠ (s.regs.getTile n).toTileBounds →
          (∃ b, i = .setTileSize n b) ∨ (∃ b, i = .loadTile n b) ∨ (∃ b, i = .loadTlut n b) ∨
            ∃ sl tl sh dxt, i = .loadBlock n sl tl sh dxt)

/-! ## Rendering commands (42_primitives.md, 43_span_renderers.md) -/

/-- R600 to R607, R630 to R632: each of TRI_FILL, TRI_FILL_Z, TRI_TEX, TRI_TEX_Z, TRI_SHADE, TRI_SHADE_Z, TRI_SHADE_TEX,
TRI_SHADE_TEX_Z, TEX_RECT, TEX_RECT_FLIP and FILL_RECT completes wherever `canDraw` holds and the latch is clear: the edge walk
of its parameter block, then the renderers over the walk's range. Nothing but the walker's values and the pixel part
changes. -/
def Obligations.RenderingCommandsComplete : Prop :=
  ∀ (i : Instr) (P : EdgeParams) (s : State), edgeParamsOf s.regs.om.cycleType i = some P → canDraw s P →
    s.pixel.crashed = false →
    ∃ p : Pixel,
      renderSpans (edgeWalk s.toCtx P) (renderRange (edgeWalk s.toCtx P) P) (edgeGradients P s.pixel) = .ok p ∧
        exec i s = .next { s with walk := (edgeWalk s.toCtx P).walk, pixel := p }

/-- The parameter block of each rendering command is there in every state, so that the statements over `edgeParamsOf` speak
of all eleven and of nothing else. A triangle's words give its coefficients by R318 to R321, both halves of a 32-bit attribute,
and a rectangle's words its corners, tile, s, t and their gradients by R317. A triangle's block has its edges, slopes, tile and level, the coefficients of the blocks its opcode has, and zeros for the others (R608,
R322). A rectangle's edges are upright, its major edge on the left (R630), s and t and their gradients as R630, with the axes
exchanged (R631), or zeros (R632). -/
def Obligations.RenderingCommandsHaveParameters : Prop :=
  (∀ (i : Instr) (ct : CycleType), (edgeParamsOf ct i).isSome = isRendering i) ∧
    (∀ (w : Word64) (rest : List Word64),
      let field := fun (k lo n : Nat) => ((w :: rest).getD k 0).extractLsb' lo n
      let coeff := fun (k lo : Nat) =>
        ({ v := field k lo 16 ++ field (k + 2) lo 16, dx := field (k + 1) lo 16 ++ field (k + 3) lo 16,
           de := field (k + 4) lo 16 ++ field (k + 6) lo 16, dy := field (k + 5) lo 16 ++ field (k + 7) lo 16 } : Coeff)
      let e : EdgeCoeffs :=
        { flip := w.getLsbD 55, maxLevel := field 0 51 3, tile := field 0 48 3, yl := field 0 32 14, ym := field 0 16 14,
          yh := field 0 0 14, xl := field 1 32 28, dxldy := field 1 0 30, xh := field 2 32 28, dxhdy := field 2 0 30,
          xm := field 3 32 28, dxmdy := field 3 0 30 }
      let shade : ShadeCoeffs := { r := coeff 4 48, g := coeff 4 32, b := coeff 4 16, a := coeff 4 0 }
      let tex := fun k => ({ s := coeff k 48, t := coeff k 32, w := coeff k 16 } : TexCoeffs)
      let depth := fun k =>
        ({ v := field k 32 32, dx := field k 0 32, de := field (k + 1) 32 32, dy := field (k + 1) 0 32 } : Coeff)
      (w.extractLsb' 56 6 = 0x08 → decodeCmd (w :: rest) = .triFill e) ∧
        (w.extractLsb' 56 6 = 0x09 → decodeCmd (w :: rest) = .triFillZ e (depth 4)) ∧
        (w.extractLsb' 56 6 = 0x0A → decodeCmd (w :: rest) = .triTex e (tex 4)) ∧
        (w.extractLsb' 56 6 = 0x0B → decodeCmd (w :: rest) = .triTexZ e (tex 4) (depth 12)) ∧
        (w.extractLsb' 56 6 = 0x0C → decodeCmd (w :: rest) = .triShade e shade) ∧
        (w.extractLsb' 56 6 = 0x0D → decodeCmd (w :: rest) = .triShadeZ e shade (depth 12)) ∧
        (w.extractLsb' 56 6 = 0x0E → decodeCmd (w :: rest) = .triShadeTex e shade (tex 12)) ∧
        (w.extractLsb' 56 6 = 0x0F → decodeCmd (w :: rest) = .triShadeTexZ e shade (tex 12) (depth 20))) ∧
    (∀ (w : Word64) (rest : List Word64),
      let w1 := (w :: rest).getD 1 0
      let r : Rect :=
        { xl := w.extractLsb' 44 12, yl := w.extractLsb' 32 12, xh := w.extractLsb' 12 12, yh := w.extractLsb' 0 12 }
      let x : RectTex :=
        { s := w1.extractLsb' 48 16, t := w1.extractLsb' 32 16, dsdx := w1.extractLsb' 16 16, dtdy := w1.extractLsb' 0 16 }
      (w.extractLsb' 56 6 = 0x24 → decodeCmd (w :: rest) = .texRect r (w.extractLsb' 24 3) x) ∧
        (w.extractLsb' 56 6 = 0x25 → decodeCmd (w :: rest) = .texRectFlip r (w.extractLsb' 24 3) x) ∧
        (w.extractLsb' 56 6 = 0x36 → decodeCmd (w :: rest) = .fillRect r)) ∧
    (∀ (e : EdgeCoeffs) (h : ShadeCoeffs) (x : TexCoeffs) (z : Coeff) (ct : CycleType),
      let block := fun (shade tex depth : Bool) (f : Coeff → BitVec 32) =>
        let on := fun (b : Bool) (k : Coeff) => if b then (f k).toInt else 0
        ({ r := on shade h.r, g := on shade h.g, b := on shade h.b, a := on shade h.a,
           s := on tex x.s, t := on tex x.t, w := on tex x.w, z := on depth z } : Attrs Int)
      ∀ p ∈ [(Instr.triFill e, false, false, false), (.triFillZ e z, false, false, true), (.triTex e x, false, true, false),
          (.triTexZ e x z, false, true, true), (.triShade e h, true, false, false), (.triShadeZ e h z, true, false, true),
          (.triShadeTex e h x, true, true, false), (.triShadeTexZ e h x z, true, true, true)],
        edgeParamsOf ct p.1 = some
          { flip := e.flip, maxLevel := e.maxLevel, tile := e.tile, yl := e.yl.toInt, ym := e.ym.toInt, yh := e.yh.toInt,
            xl := e.xl.toInt, xm := e.xm.toInt, xh := e.xh.toInt, dxldy := e.dxldy.toInt, dxmdy := e.dxmdy.toInt,
            dxhdy := e.dxhdy.toInt, v := block p.2.1 p.2.2.1 p.2.2.2 Coeff.v, dx := block p.2.1 p.2.2.1 p.2.2.2 Coeff.dx,
            de := block p.2.1 p.2.2.1 p.2.2.2 Coeff.de, dy := block p.2.1 p.2.2.1 p.2.2.2 Coeff.dy }) ∧
    ∀ (r : Rect) (n : BitVec 3) (x : RectTex) (ct : CycleType),
      let yl : Nat := if ct = .fill ∨ ct = .copy then r.yl.toNat / 4 * 4 + 3 else r.yl.toNat
      let zero : Attrs Int := Attrs.const 0
      let rect : EdgeParams :=
        { flip := true, maxLevel := 0, tile := n, yl := yl, ym := yl, yh := r.yh.toNat, xl := r.xl.toNat * 16384,
          xm := r.xl.toNat * 16384, xh := r.xh.toNat * 16384, dxldy := 0, dxmdy := 0, dxhdy := 0, v := zero, dx := zero,
          de := zero, dy := zero }
      let start : Attrs Int := { zero with s := x.s.toInt * 65536, t := x.t.toInt * 65536 }
      let onS := fun d : BitVec 16 => { zero with s := d.toInt * 2048 }
      let onT := fun d : BitVec 16 => { zero with t := d.toInt * 2048 }
      edgeParamsOf ct (.texRect r n x) =
          some { rect with v := start, dx := onS x.dsdx, de := onT x.dtdy, dy := onT x.dtdy } ∧
        edgeParamsOf ct (.texRectFlip r n x) =
          some { rect with v := start, dx := onT x.dtdy, de := onS x.dsdx, dy := onS x.dsdx } ∧
        edgeParamsOf ct (.fillRect r) = some { rect with tile := 0 }

/-- What a rendering command can stop with: the model faults of R716, R751, R823 and R209 alone, each only under the parameter
setting that asks for it. -/
def Obligations.RenderingFaultsAreNamed : Prop :=
  ∀ (i : Instr) (s : State) (f : Fault), isRendering i = true → exec i s = .fault f →
    (f = .fourBitColourImage ∧ s.params.fb4Mode = .fault ∧ s.regs.fbSize = .b4) ∨
      (f = .copySizeMismatch ∧ s.params.copyFetch = .standard ∧ s.regs.om.cycleType = .copy) ∨
      (f = .texelFormat ∧ s.params.unknownTexel = .fault) ∨
      ∃ a, f = .outOfRange a ∧ s.params.oobMode = .fault ∧ s.params.rdramSize ≤ a ∧ a ≤ s.params.addrMask

/-- The memory frame of the eleven rendering commands: a byte changes only if the primitive may store to it, that is, if it
belongs to a pixel of a valid scanline of its range in the colour image (R710), or in the depth image under z_update_en
(R1009, R1011), or among the bytes the copy renderer walks (R750); and a hidden field changes only if the primitive may store to
a byte of its halfword (R207, R208). -/
def Obligations.RenderingStoresOnlyItsPixels : Prop :=
  ∀ (i : Instr) (P : EdgeParams) (s t : State), edgeParamsOf s.regs.om.cycleType i = some P →
    Memory.wf s.pixel.host = true → exec i s = .next t →
    let stores := primitiveStores (edgeWalk s.toCtx P) P
    (∀ a : Nat, ¬stores a → t.pixel.host.byte a = s.pixel.host.byte a) ∧
      ∀ h : Nat, ¬stores (2 * h) → ¬stores (2 * h + 1) → t.pixel.host.hidden h = s.pixel.host.hidden h

/-- R622: a primitive whose vertical range is empty after clipping writes no pixel; in particular (R1204) none does under the
empty clip rectangle of reset. -/
def Obligations.EmptyRangeDrawsNothing : Prop :=
  ∀ (i : Instr) (P : EdgeParams) (s t : State), edgeParamsOf s.regs.om.cycleType i = some P → s.Inv → exec i s = .next t →
    ((yRange s.regs P).yllimit ≤ (yRange s.regs P).yhlimit → t.pixel.host = s.pixel.host) ∧
      (s.regs.clip = { xh := 0, yh := 0, xl := 0, yl := 0 } → t.pixel.host = s.pixel.host)

/-- The scenario S6 of the spec (R632's example, R740, R741): FILL_RECT in fill mode on a 16-bit image, its rectangle inside the
clip. Every pixel from (xh, yh) to (xl, yl), both inclusive, of a kept field reads as the half of the fill word its address
selects, and every other byte of host memory is as before, those of the skipped field's rows included. The rectangle must reach a
sub-row before its last. -/
def Obligations.FillRectFillsExactly : Prop :=
  ∀ (s t : State) (r : Rect), s.Inv → s.regs.om.cycleType = .fill → s.regs.fbSize = .b16 → s.pixel.crashed = false →
    s.params.fillKillMode = .standard → s.regs.om.imageReadEn = false → s.regs.om.zCompareEn = false →
    s.regs.om.zUpdateEn = false → s.params.oobMode = .fault → s.params.addrMask % 4 = 3 →
    1024 ≤ s.params.maxScanlines →
    s.regs.clip.xh.toNat ≤ r.xh.toNat → r.xh.toNat ≤ r.xl.toNat → r.xl.toNat ≤ s.regs.clip.xl.toNat →
    r.xh.toNat < s.regs.clip.xl.toNat → s.regs.clip.yh.toNat ≤ r.yh.toNat → r.yh.toNat < r.yl.toNat / 4 * 4 + 3 →
    r.yl.toNat / 4 * 4 + 3 < s.regs.clip.yl.toNat → exec (.fillRect r) s = .next t →
    (∀ x y : Nat, r.xh.toNat / 4 ≤ x → x ≤ r.xl.toNat / 4 → r.yh.toNat / 4 ≤ y → y ≤ r.yl.toNat / 4 →
      (s.regs.scField = true → (y % 2 = 1 ↔ s.regs.scKeepOdd = true)) →
      memRead s.params t.pixel.host (fbPixelAddr s.regs (fbIndex s.regs x y)) 2 =
        .ok (if (fbPixelAddr s.regs (fbIndex s.regs x y) / 2) % 2 = 1 then s.regs.fillColor.toNat % 65536
          else s.regs.fillColor.toNat / 65536)) ∧
      ∀ a : Nat,
        (∀ x y k : Nat, r.xh.toNat / 4 ≤ x → x ≤ r.xl.toNat / 4 → r.yh.toNat / 4 ≤ y → y ≤ r.yl.toNat / 4 →
          (s.regs.scField = true → (y % 2 = 1 ↔ s.regs.scKeepOdd = true)) → k < 2 →
          a ≠ maskAddr s.params (fbPixelAddr s.regs (fbIndex s.regs x y) + k)) →
        t.pixel.host.byte a = s.pixel.host.byte a

/-- The gradients a primitive's walk leaves (R612, R1013), and the tile, level and direction of its block (R610): spans_d with the
low five bits cleared, z's kept whole as R612 says or cleared as R122 does, by the model's parameter `spansDz` (log entry 33);
spans_dy and spans_cd narrowed, spans_cd of s, t and w left as it was (log entry 19); spans_dzpix the power of two above the
sum of the two depth gradients' one's-complement magnitudes. -/
def Obligations.WalkLeavesGradients : Prop :=
  ∀ (c : Ctx) (p : Pixel) (e : EdgeCoeffs) (h : ShadeCoeffs) (x : TexCoeffs) (z : Coeff),
    let P := triParams e h x z
    let w := (edgeWalk c P).walk
    let colour := fun v : BitVec 32 => (v.extractLsb' 14 13).signExtend 32
    let depth := fun v : BitVec 32 => (v.extractLsb' 10 22).signExtend 32
    let mag := fun v : BitVec 32 => if v.msb then 32767 - v.toNat / 65536 % 32768 else v.toNat / 65536
    let sum := mag z.dy + mag z.dx
    w.spansD = { r := h.r.dx &&& ~~~0x1f, g := h.g.dx &&& ~~~0x1f, b := h.b.dx &&& ~~~0x1f, a := h.a.dx &&& ~~~0x1f,
                 s := x.s.dx &&& ~~~0x1f, t := x.t.dx &&& ~~~0x1f, w := x.w.dx &&& ~~~0x1f,
                 z := if c.params.spansDz = .whole then z.dx else z.dx &&& ~~~0x1f } ∧
      w.primTile = e.tile ∧ w.maxLevel = e.maxLevel ∧ w.flip = e.flip ∧
      w.spansDzpix.toNat = (if 16384 ≤ sum then 32768 else if sum = 0 then 1 else 2 ^ (Nat.log2 sum + 1)) ∧
      edgeGradients P p =
        { p with
          spansDy := { r := colour h.r.dy, g := colour h.g.dy, b := colour h.b.dy, a := colour h.a.dy,
                       s := x.s.dy &&& ~~~0x7fff, t := x.t.dy &&& ~~~0x7fff, w := x.w.dy &&& ~~~0x7fff, z := depth z.dy }
          spansCd := { r := colour h.r.dx, g := colour h.g.dx, b := colour h.b.dx, a := colour h.a.dx,
                       s := p.spansCd.s, t := p.spansCd.t, w := p.spansCd.w, z := depth z.dx } }

/-- R707: after every 2-cycle pixel, whatever its tests answer, the memory colour is that pixel's own. -/
def Obligations.TwoCycleKeepsItsMemoryColour : Prop :=
  ∀ (c : Ctx) (p q : Pixel) (f : Fragment) (fb : FbPixel),
    fbRead c p.host (fbIndex c.regs f.x f.y) = .ok fb → finish2 c p f = .ok q →
    q.memoryColor = fb.color ∧ q.preMemoryColor = fb.color

/-! ## Loads (41_texture_load.md) -/

/-- R315, R500, R501, R502: LOAD_TILE, LOAD_BLOCK and LOAD_TLUT come from the words of R315, and complete on every form R507 does not exclude wherever their reads do
(R209), whether or not the crash latch is set (R1106); they change TMEM and the bounds of their tile, and nothing else. Which texels
LOAD_TILE reads goes by the integer parts of its bounds, the model's reading of R500 (log entry 35). -/
def Obligations.LoadsComplete : Prop :=
  (∀ (w : Word64) (rest : List Word64),
    let tile := w.extractLsb' 24 3
    let b : TileBounds :=
      { sl := w.extractLsb' 44 12, tl := w.extractLsb' 32 12, sh := w.extractLsb' 12 12, th := w.extractLsb' 0 12 }
    (w.extractLsb' 56 6 = 0x30 → decodeCmd (w :: rest) = .loadTlut tile b) ∧
      (w.extractLsb' 56 6 = 0x33 → decodeCmd (w :: rest) =
        .loadBlock tile (w.extractLsb' 44 12) (w.extractLsb' 32 12) (w.extractLsb' 12 12) (w.extractLsb' 0 12)) ∧
      (w.extractLsb' 56 6 = 0x34 → decodeCmd (w :: rest) = .loadTile tile b)) ∧
  ∀ (s : State) (n : BitVec 3) (b : TileBounds) (sl tl sh dxt : BitVec 12),
    s.regs.tiSize ≠ .b4 → (s.regs.getTile n).format ≠ 1 →
    ((∀ row i : Nat, row < texelCount b.tl b.th → i < texelCount b.sl b.sh →
        accessOk s.params (texAddr s.regs (b.sl.toNat / 4 + i) (b.tl.toNat / 4 + row)) (texelBytes s.regs.tiSize)) →
      ∃ m, exec (.loadTile n b) s = .next { s with regs := s.regs.setBounds n b, tmem := m }) ∧
      ((∀ i : Nat, i < sh.toNat + 1 - sl.toNat →
          accessOk s.params (texAddr s.regs (sl.toNat + i) tl.toNat) (texelBytes s.regs.tiSize)) →
        ∃ m, exec (.loadBlock n sl tl sh dxt) s =
          .next { s with regs := s.regs.setBounds n { sl := sl, tl := tl, sh := sh, th := dxt }, tmem := m }) ∧
      (s.regs.tiSize = .b16 →
        (∀ i : Nat, i < texelCount b.sl b.sh →
          accessOk s.params (texAddr s.regs (b.sl.toNat / 4 + i) (b.tl.toNat / 4)) 2) →
        ∃ m, exec (.loadTlut n b) s = .next { s with regs := s.regs.setBounds n b, tmem := m })

/-- R507. That LOAD_TLUT into a tile of format YUV is among the forms R507 excludes, although R502's pseudocode checks the image
size alone, is the model's reading (log entry 8). -/
def Obligations.UnspecifiedLoadsFault : Prop :=
  ∀ (s : State) (n : BitVec 3) (b : TileBounds) (sl tl sh dxt : BitVec 12),
    (s.regs.tiSize = .b4 ∨ (s.regs.getTile n).format = 1 →
      exec (.loadTile n b) s = .fault .textureLoadForm ∧ exec (.loadBlock n sl tl sh dxt) s = .fault .textureLoadForm) ∧
      (s.regs.tiSize ≠ .b16 ∨ (s.regs.getTile n).format = 1 → exec (.loadTlut n b) s = .fault .textureLoadForm)

/-- R502: LOAD_TLUT writes entry `i` of row tl >> 2 to the four halfwords from 4 * tmem + 4 * i on, and no other halfword, when
the entries fit below the end of TMEM (entries that wrap past it are left out). The source address is TexAddr's, with the image's
base truncated to a halfword (R206; log entry 7). -/
def Obligations.LoadTlutWritesFourLanes : Prop :=
  ∀ (s t : State) (n : BitVec 3) (b : TileBounds), tmemInv s.tmem = true → exec (.loadTlut n b) s = .next t →
    4 * (s.regs.getTile n).tmem.toNat + 4 * texelCount b.sl b.sh ≤ 2048 →
    (∀ i k : Nat, i < texelCount b.sl b.sh → k < 4 →
      memRead s.params s.pixel.host (texAddr s.regs (b.sl.toNat / 4 + i) (b.tl.toNat / 4)) 2 =
        .ok (tmemRead16 t.tmem (4 * (s.regs.getTile n).tmem.toNat + 4 * i + k))) ∧
      ∀ h : Nat, h < 2048 →
        (h < 4 * (s.regs.getTile n).tmem.toNat ∨
          4 * (s.regs.getTile n).tmem.toNat + 4 * texelCount b.sl b.sh ≤ h) →
        tmemRead16 t.tmem h = tmemRead16 s.tmem h

/-- R500, R503, R505, R820: LOAD_TILE of an 8-bit, 16-bit or 32-bit image whose rows fit their lines and TMEM (for 32 bits: its low
half): every texel of the rectangle lands where the texture pipeline looks for it, odd rows swizzled, a 32-bit texel as two
halfwords. The source address is TexAddr's, with the image's base truncated to the texel's size (R206; log entry 7). The texels
of an axis are counted by the integer parts of its bounds, so that sl = 3, sh = 1 loads one texel: the model's reading of R500
(log entry 35). Whether or not the rows fit, TMEM is as before wherever no texel of the rectangle lands. -/
def Obligations.LoadTileLandsWhereTexelsAreRead : Prop :=
  ∀ (s t : State) (n : BitVec 3) (b : TileBounds), tmemInv s.tmem = true → exec (.loadTile n b) s = .next t →
    let tl := s.regs.getTile n
    let rows := texelCount b.tl b.th
    let read := fun row i : Nat =>
      memRead s.params s.pixel.host (texAddr s.regs (b.sl.toNat / 4 + i) (b.tl.toNat / 4 + row)) (texelBytes s.regs.tiSize)
    rows ≤ 256 →
    ((s.regs.tiSize = .b8 →
        ∀ a : Nat, a < 4096 → (∀ row i : Nat, row < rows → i < texelCount b.sl b.sh → a ≠ texelByte8 tl i row) →
          tmemRead8 t.tmem a = tmemRead8 s.tmem a) ∧
      (s.regs.tiSize = .b16 →
        ∀ h : Nat, h < 2048 → (∀ row i : Nat, row < rows → i < texelCount b.sl b.sh → h ≠ texelHalf16 tl i row) →
          tmemRead16 t.tmem h = tmemRead16 s.tmem h) ∧
      (s.regs.tiSize = .b32 →
        ∀ h : Nat, h < 2048 → (∀ row i : Nat, row < rows → i < texelCount b.sl b.sh → h % 1024 ≠ texelHalf32 tl i row) →
          tmemRead16 t.tmem h = tmemRead16 s.tmem h)) ∧
    (s.regs.tiSize = .b8 → texelCount b.sl b.sh ≤ 8 * tl.line.toNat →
      8 * tl.tmem.toNat + 8 * tl.line.toNat * rows ≤ 4096 →
      ∀ row i : Nat, row < rows → i < texelCount b.sl b.sh →
        read row i = .ok (tmemRead8 t.tmem (texelByte8 tl i row)).toNat) ∧
      (s.regs.tiSize = .b16 → texelCount b.sl b.sh ≤ 4 * tl.line.toNat →
        4 * tl.tmem.toNat + 4 * tl.line.toNat * rows ≤ 2048 →
        ∀ row i : Nat, row < rows → i < texelCount b.sl b.sh →
          read row i = .ok (tmemRead16 t.tmem (texelHalf16 tl i row))) ∧
      (s.regs.tiSize = .b32 → texelCount b.sl b.sh ≤ 4 * tl.line.toNat →
        4 * tl.tmem.toNat + 4 * tl.line.toNat * rows ≤ 1024 →
        ∀ row i : Nat, row < rows → i < texelCount b.sl b.sh →
          read row i =
            .ok (tmemRead16 t.tmem (texelHalf32 tl i row) * 65536 + tmemRead16 t.tmem (texelHalf32 tl i row + 1024)))

/-- R501, R503, R505: LOAD_BLOCK of an 8-bit, 16-bit or 32-bit image whose run fits TMEM (for 32 bits: its low half): texel `i` lands
at the run's byte i, 2i or 2i, its address with bit 2 flipped where the row counter of its 64-bit word is odd, a 32-bit texel as two
halfwords; and every byte of TMEM outside the run's 64-bit words is as before. The source address is TexAddr's, with the
image's base truncated to the texel's size (R206; log entry 7). -/
def Obligations.LoadBlockLandsInOneRun : Prop :=
  ∀ (s t : State) (n : BitVec 3) (sl tl sh dxt : BitVec 12), tmemInv s.tmem = true →
    exec (.loadBlock n sl tl sh dxt) s = .next t →
    let base := 8 * (s.regs.getTile n).tmem.toNat
    let count := sh.toNat + 1 - sl.toNat
    let place := fun off : Nat => if off / 8 * dxt.toNat / 2048 % 2 = 1 then (base + off) ^^^ 4 else base + off
    let read := fun i : Nat =>
      memRead s.params s.pixel.host (texAddr s.regs (sl.toNat + i) tl.toNat) (texelBytes s.regs.tiSize)
    (s.regs.tiSize = .b8 → base + count ≤ 4096 →
      (∀ i : Nat, i < count → read i = .ok (tmemRead8 t.tmem (place i)).toNat) ∧
        ∀ a : Nat, a < 4096 → a < base ∨ base + (count + 7) / 8 * 8 ≤ a → tmemRead8 t.tmem a = tmemRead8 s.tmem a) ∧
      (s.regs.tiSize = .b16 → base + 2 * count ≤ 4096 →
        (∀ i : Nat, i < count → read i = .ok (tmemRead16 t.tmem (place (2 * i) / 2))) ∧
          ∀ a : Nat, a < 4096 → a < base ∨ base + (count + 3) / 4 * 8 ≤ a → tmemRead8 t.tmem a = tmemRead8 s.tmem a) ∧
      (s.regs.tiSize = .b32 → base + 2 * count ≤ 2048 →
        (∀ i : Nat, i < count →
          read i = .ok (tmemRead16 t.tmem (place (2 * i) / 2) * 65536 + tmemRead16 t.tmem (place (2 * i) / 2 + 1024))) ∧
          ∀ a : Nat, a < 4096 → a % 2048 < base ∨ base + (count + 3) / 4 * 8 ≤ a % 2048 →
            tmemRead8 t.tmem a = tmemRead8 s.tmem a)

/-- R503, R820, R505: the TMEM place a load gives texel `i` of row `row` is the place the texture pipeline reads, for 8-bit,
16-bit and 32-bit texels. -/
def Obligations.LoadAndFetchAgreeOnPlace : Prop :=
  ∀ (tl : Tile) (row i : Nat), row < 256 →
    let a := fun stride => swizzle (row % 2 == 1) (8 * tl.tmem.toNat + 8 * tl.line.toNat * row + i * stride)
    a 1 &&& 0xfff = texelByte8 tl i row ∧ (a 2 >>> 1) &&& 0x7ff = texelHalf16 tl i row ∧
      (a 2 >>> 1) &&& 0x3ff = texelHalf32 tl i row

/-! ## Invariants and reset (70_reset_and_hazards.md) -/

/-- Every step keeps `State.Inv`: host memory, hidden fields, TMEM, the coverage and the span buffer stay canonical and within
their bounds (R119, R121, R123, R209), image widths stay 1..1024 and image addresses within ADDR_MASK (R113 to R115), and the
cursor stays in the command sequence (R301). -/
def Obligations.EveryStepKeepsTheInvariant : Prop :=
  ∀ (s t : State), s.Inv → step s = .next t → t.Inv

/-- The invariant holds at reset. -/
def Obligations.ResetHasTheInvariant : Prop := State.reset.Inv

/-- R1203: every register of the engine after reset. `lodFracBit8`, the bit 8 of the LOD fraction that R853 sets, is a field of the
model's own, beside R129's eight bits (log entry 6), and its reset value the model's. The parameters are the spec's defaults (log
entry 1) and the sink, the draw counter and host memory are the model's choice (log entries 2, 3, 5) and not stated here. -/
def Obligations.ResetValues : Prop :=
  let r := State.reset.regs
  let p := State.reset.pixel
  let w := State.reset.walk
  let black : Rgba8 := { r := 0, g := 0, b := 0, a := 0 }
  State.reset.cmdIndex = 0 ∧ decodeCmd [0x2F00000000000000] = .setOtherModes r.om ∧
    decodeCmd [0x3C00000000000000] = .setCombine r.cc ∧
    r.fogColor = black ∧ r.blendColor = black ∧ r.primColor = black ∧ r.envColor = black ∧ r.fillColor = 0 ∧
    r.primLodMin = 0 ∧ r.primLodFrac = 0 ∧ r.keyWidth = { r := 0, g := 0, b := 0 } ∧ r.keyCenter = { r := 0, g := 0, b := 0 } ∧
    r.keyScale = { r := 0, g := 0, b := 0 } ∧ (r.k0, r.k1, r.k2, r.k3, r.k4, r.k5) = (0, 0, 0, 0, 0, 0) ∧ r.primZ = 0 ∧
    r.primDz = 0 ∧ r.clip = { xh := 0, yh := 0, xl := 0, yl := 0 } ∧ r.scField = false ∧ r.scKeepOdd = false ∧
    (r.fbFormat, r.fbSize, r.fbWidth, r.fbAddress) = (0, .b4, 1, 0) ∧
    (r.tiFormat, r.tiSize, r.tiWidth, r.tiAddress) = (0, .b4, 1, 0) ∧ r.zbAddress = 0 ∧
    (∀ n : BitVec 3, decodeCmd [0x3500000000000000] = .setTile 0 (r.getTile n).toTileMode ∧
      (r.getTile n).toTileBounds = { sl := 0, tl := 0, sh := 0, th := 0 }) ∧
    (∀ a : Nat, tmemRead8 State.reset.tmem a = 0) ∧ (∀ i : Int, spanAt State.reset.params w i = Span.zero) ∧
    w.spansD = Attrs.const 0 ∧ p.spansDy = Attrs.const 0 ∧ p.spansCd = Attrs.const 0 ∧ w.spansDzpix = 0 ∧ w.primTile = 0 ∧
    w.maxLevel = 0 ∧ w.flip = false ∧ (∀ x : Int, cvgAt p.cvgbuf x = 0) ∧ p.memoryColor = black ∧ p.preMemoryColor = black ∧
    p.pastRawdzmem = 0 ∧ p.nextTexel = { r := 0, g := 0, b := 0, a := 0 } ∧ p.noiseSeed = 0 ∧ p.lodFrac = 0 ∧
    p.lodFracBit8 = false ∧
    p.crashed = false ∧ ∀ c : CrashName, p.warned.has c = false

/-- R1206: host reset gives every register, TMEM and buffer its reset value and a new command sequence from its start, and
leaves host memory and its hidden bits; that the parameters, the sink and the draw counter stay is the model's (log entry
28). -/
def Obligations.HostResetKeepsHostMemory : Prop :=
  ∀ (s : State) (ws : List Word64),
    (s.hostReset ws).regs = State.reset.regs ∧ (s.hostReset ws).tmem = State.reset.tmem ∧
      (s.hostReset ws).walk = State.reset.walk ∧ (s.hostReset ws).cmdIndex = 0 ∧ (s.hostReset ws).cmds = ws ∧
      (s.hostReset ws).pixel =
        { State.reset.pixel with host := s.pixel.host, diag := s.pixel.diag, draws := s.pixel.draws } ∧
      (s.hostReset ws).params = s.params

/-! ## Host memory (20_memory.md) -/

/-- R205, R203: what MemWrite stores, MemRead of the same width reads, big-endian byte for byte, and no other byte changes; for
1, 2 and 4 bytes. The address mask has its low two bits, so that the bytes of an access are distinct. -/
def Obligations.MemoryReadsWhatWasWritten : Prop :=
  ∀ (P : Params) (m m' : HostMem) (a : Int) (n v : Nat), Memory.wf m = true → n = 1 ∨ n = 2 ∨ n = 4 → P.addrMask % 4 = 3 →
    v < 256 ^ n → outOfRange P a n = none → memWrite P m a n v = .ok m' →
    memRead P m' a n = .ok v ∧
      (∀ i < n, (m'.byte (maskAddr P (a + i))).toNat = v / 256 ^ (n - 1 - i) % 256) ∧
      (∀ x, (∀ i < n, x ≠ maskAddr P (a + i)) → m'.byte x = m.byte x) ∧ ∀ h, m'.hidden h = m.hidden h

/-- R209: an access at or beyond RDRAM_SIZE faults under OOB_MODE = fault; under ignore a read gives 0 and a write is dropped, a
paired write with its hidden bits (that a mixed access goes as a whole is the model's, log entry 20). -/
def Obligations.OutOfRangeAccesses : Prop :=
  ∀ (P : Params) (m : HostMem) (a : Int) (n v : Nat), (∃ i < n, P.rdramSize ≤ maskAddr P (a + i)) →
    (P.oobMode = .fault → ∃ x, P.rdramSize ≤ x ∧ memRead P m a n = .error (.outOfRange x) ∧
        memWrite P m a n v = .error (.outOfRange x) ∧ (n = 1 → writePair8 P m a v = .error (.outOfRange x)) ∧
        (n = 2 → ∀ h, writePair16 P m a v h = .error (.outOfRange x)) ∧
        (n = 4 → ∀ h l, writePair32 P m a v h l = .error (.outOfRange x))) ∧
      (P.oobMode = .ignore → memRead P m a n = .ok 0 ∧ memWrite P m a n v = .ok m ∧ (n = 1 → writePair8 P m a v = .ok m) ∧
        (n = 2 → ∀ h, writePair16 P m a v h = .ok m) ∧ (n = 4 → ∀ h l, writePair32 P m a v h l = .ok m))

/-- R1010, R1011: a depth entry reads back as the compressed depth and the slope code that were stored. -/
def Obligations.DepthEntryReadsBack : Prop :=
  ∀ (c : Ctx) (m m' : HostMem) (n : Int) (z d : Nat), Memory.wf m = true → c.params.addrMask % 2 = 1 → d < 16 →
    outOfRange c.params (zbAddr c.regs n) 2 = none → zStore c m n z d = .ok m' →
    ∃ zval hval, zRead c m' n = .ok (zval, hval) ∧ zDecompress zval = zDecompress (zCompress (z &&& 0x3ffff)) ∧
      ((zval &&& 3) <<< 2) ||| hval = d

/-- R712, R713: with image read on, a pixel written to a 16-bit RGBA or a 32-bit image reads back with its colour cut to the
image's width and with the coverage that was written. -/
def Obligations.FramebufferReadsBack : Prop :=
  ∀ (c : Ctx) (m m' : HostMem) (n : Int) (v : Rgb Nat) (fc : Nat), Memory.wf m = true → c.params.addrMask % 4 = 3 →
    v.r < 256 → v.g < 256 → v.b < 256 → fc < 8 → c.regs.om.imageReadEn = true →
    outOfRange c.params (fbPixelAddr c.regs n) (pixelBytes c.regs.fbSize) = none → fbStore c m n v fc = .ok m' →
    (c.regs.fbSize = .b16 → c.regs.fbFormat = 0 →
      fbRead c m' n =
        .ok { color := { r := BitVec.ofNat 8 (v.r / 8 * 8), g := BitVec.ofNat 8 (v.g / 8 * 8), b := BitVec.ofNat 8 (v.b / 8 * 8),
                         a := BitVec.ofNat 8 (fc * 32) }, memcvg := fc }) ∧
      (c.regs.fbSize = .b32 →
        fbRead c m' n =
          .ok { color := { r := BitVec.ofNat 8 v.r, g := BitVec.ofNat 8 v.g, b := BitVec.ofNat 8 v.b,
                           a := BitVec.ofNat 8 (fc * 32) }, memcvg := fc })

/-! ## Depth (46_depth_coverage_dither.md sections 1 to 4) -/

/-- R1004: decompression never rounds up, and the error stays within the quantization step of the exponent's row, whose bound is
reached in every row; compressing again changes nothing (S7 of 95_test_vectors.md). -/
def Obligations.DepthRoundTrip : Prop :=
  (∀ z : Nat, z < 0x40000 →
    zDecompress (zCompress z) ≤ z ∧
      z - zDecompress (zCompress z) ≤
        (if z ≤ 0x1FFFF then 63 else if z ≤ 0x2FFFF then 31 else if z ≤ 0x37FFF then 15 else if z ≤ 0x3BFFF then 7
          else if z ≤ 0x3DFFF then 3 else if z ≤ 0x3EFFF then 1 else 0) ∧
      zCompress (zDecompress (zCompress z)) = zCompress z) ∧
    [0x1FFFF, 0x2FFFF, 0x37FFF, 0x3BFFF, 0x3DFFF, 0x3EFFF, 0x3F7FF, 0x3FFFF].map (fun z => z - zDecompress (zCompress z)) =
      [63, 31, 15, 7, 3, 1, 0, 0]

/-- R1018: against the entry 0xFFFF with hidden bits 3 opaque and transparent pixels pass and decal pixels fail; against an
entry of zeros transparent pixels never pass. -/
def Obligations.DepthCompareCorners : Prop :=
  ∀ (om : OtherModes) (past : BitVec 4) (sz dzpix dzpixenc cvg memcvg : Nat), sz < 0x40000 →
    let full := zTest om past 0xFFFF 3 sz dzpix dzpixenc cvg memcvg
    let zero := zTest om past 0 0 sz dzpix dzpixenc cvg memcvg
    (om.zMode = .opaqueZ ∨ om.zMode = .transparent → full.pass = true) ∧ (om.zMode = .decal → full.pass = false) ∧
      (om.zMode = .transparent → zero.pass = false) ∧
      (om.zMode = .opaqueZ → zero.pass = true → sz ≤ 8 * dzLut ((dzpix ||| 16) &&& 0xffff))

/-- R1016: with the compare off it answers for every host memory, every pixel passes and the past slope code stays; with it on, the
slope code of the entry is kept. -/
def Obligations.DepthCompareKeepsTheSlopeCode : Prop :=
  ∀ (c : Ctx) (n : Int) (sz dzpix dzpixenc cvg memcvg : Nat),
    (c.regs.om.zCompareEn = false →
      ∃ z : ZResult, z.pass = true ∧ z.cvg = cvg ∧ ∀ p : Pixel, zCompare c p n sz dzpix dzpixenc cvg memcvg = .ok (z, p)) ∧
      ∀ (p q : Pixel) (z : ZResult), zCompare c p n sz dzpix dzpixenc cvg memcvg = .ok (z, q) →
        c.regs.om.zCompareEn = true →
        ∃ zval hval, zRead c p.host n = .ok (zval, hval) ∧
          q = { p with pastRawdzmem := BitVec.ofNat 4 (4 * (zval % 4) + hval) }

/-! ## Coverage, dither, noise -/

/-- R1032 with R1033: the count is the population count, the offsets are those of the lowest covered sub-row and of its lowest
column by the X and Y tables, the coverage bit is bit 7; a full byte has count 8 and no offset. -/
def Obligations.CoverageLookup : Prop :=
  ∀ (P : Params) (b : Nat), b < 256 → P.cvarray = .standard →
    let M := (b &&& 1) ||| ((b &&& 2) <<< 4) ||| (b &&& 4) ||| ((b &&& 8) <<< 4) ||| ((b &&& 0x10) <<< 4) |||
      ((b &&& 0x20) <<< 8) ||| ((b &&& 0x40) <<< 4) ||| ((b &&& 0x80) <<< 8)
    let row := fun r => (M >>> (12 - 4 * r)) &&& 0xf
    let rows := (List.range 4).foldl (fun m r => if row r ≠ 0 then m + 2 ^ r else m) 0
    cvgLookup P b =
      { count := ((List.range 8).map (fun k => b / 2 ^ k % 2)).sum
        bit := decide (128 ≤ b)
        offy := [0, 0, 1, 0, 2, 0, 1, 0, 3, 0, 1, 0, 2, 0, 1, 0].getD rows 0
        offx := [0, 3, 2, 2, 1, 1, 1, 1, 0, 0, 0, 0, 0, 0, 0, 0].getD
          (row ([0, 0, 1, 0, 2, 0, 1, 0, 3, 0, 1, 0, 2, 0, 1, 0].getD rows 0)) 0 }

/-- R1031's example for every span: edges on whole pixels `l` and `h` in all four sub-rows cover each pixel from `l` up to but not
including `h` fully and `h` not at all, and leave the pixels outside as they were; for both directions. -/
def Obligations.WholePixelSpansAreFullyCovered : Prop :=
  ∀ (flip : Bool) (l h : Nat) (b : List Host.Cell), cvgInv b = true → l < h → h < 1024 →
    let sp : Span :=
      { Span.zero with
        rx := BitVec.ofNat 12 (if flip then l else h), lx := BitVec.ofNat 12 (if flip then h else l),
        majorx := Quad.const (BitVec.ofNat 13 (8 * if flip then l else h)),
        minorx := Quad.const (BitVec.ofNat 13 (8 * if flip then h else l)) }
    ∀ x : Nat, x < 1024 →
      cvgAt (buildCvg flip sp b) x = if l ≤ x ∧ x < h then 0xff else if x = h then 0 else cvgAt b x

/-- R1043: dither leaves a channel or raises it to the next multiple of 8, 255 at the top; with selector 3 it changes
nothing, and with the noise selector the three thresholds come from bits 8:6, 5:3 and 2:0 of the draw. -/
def Obligations.RgbDitherRoundsUp : Prop :=
  ∀ (sel : RgbDitherSel) (c : Rgb Nat) (d : Nat), c.r < 256 → c.g < 256 → c.b < 256 →
    let up := fun v th => if v % 8 ≤ th then v else if 248 ≤ v then 255 else (v / 8 + 1) * 8
    rgbDither sel c d =
      match sel with
      | .none => c
      | .noise => { r := up c.r (d / 64 % 8), g := up c.g (d / 8 % 8), b := up c.b (d % 8) }
      | .magic => { r := up c.r d, g := up c.g d, b := up c.b d }
      | .bayer => { r := up c.r d, g := up c.g d, b := up c.b d }

/-- R1044: a draw under either noise source lies in 0..0x7FFF; under LCG the seed moves by the generator and no free value is
taken, under `draw` a free value is taken (log entry 3) and the seed stays. -/
def Obligations.NoiseSources : Prop :=
  ∀ (P : Params) (p : Pixel),
    (rand P p).1 ≤ 0x7FFF ∧
      (P.noise = .lcg →
        (rand P p).2 = { p with noiseSeed := BitVec.ofNat 32 (214013 * p.noiseSeed.toNat + 2531011) } ∧
          (rand P p).1 = (214013 * p.noiseSeed.toNat + 2531011) / 65536 % 32768) ∧
      (P.noise = .draw → (rand P p).2 = { p with draws := p.draws + 1 })

/-! ## Combiner and blender (45_combiner_blender.md) -/

/-- R901: Ext9 reads a 9-bit field as -128..383, and Clamp9 is that value limited to 0..255. -/
def Obligations.ClampTables : Prop :=
  ∀ v : Nat, v < 512 →
    -128 ≤ ext9 v ∧ ext9 v ≤ 383 ∧ ext9 v % 512 = v ∧ (clamp9 v : Int) = min 255 (max 0 (ext9 v))

/-- R906: the identity combine law, for every pixel: with sub_a, sub_b and mul selecting ZERO, add selecting TEXEL0 and key_en
off, the 1-cycle pixel's colour is the texel's. -/
def Obligations.IdentityCombine : Prop :=
  ∀ (c : Ctx) (x : CombineInputs) (adith cvg : Nat), c.regs.om.keyEn = false → 8 ≤ c.regs.cc.c1.subArgb.toNat →
    8 ≤ c.regs.cc.c1.subBrgb.toNat → 16 ≤ c.regs.cc.c1.mulRgb.toNat → c.regs.cc.c1.addRgb = 1 →
    x.texel0.r < 256 → x.texel0.g < 256 → x.texel0.b < 256 →
    (combine1 c x adith cvg).color.r = x.texel0.r ∧ (combine1 c x adith cvg).color.g = x.texel0.g ∧
      (combine1 c x adith cvg).color.b = x.texel0.b

/-- R925, R930, R1033: a pixel without coverage, or with antialiasing off without its coverage bit, is not written; and with
blending off, no dither and no color_on_cvg the first colour input is written as it is. -/
def Obligations.BlenderGates : Prop :=
  ∀ (c : Ctx) (p : Pixel) (q : CombinedPixel) (sa d : Nat) (k : BlendCtl),
    ((c.regs.om.antialiasEn = true ∧ k.cvg = 0) ∨ (c.regs.om.antialiasEn = false ∧ k.cvbit = false) →
      (blend1 c p q sa d k).1 = none ∧ (blend2 c p q sa d k).1 = none) ∧
      (c.regs.om.alphaCompareEn = false → c.regs.om.colorOnCvg = false → k.blendEn = false →
        c.regs.om.rgbDitherSel = .none → (c.regs.om.antialiasEn = true → k.cvg ≠ 0) →
        (c.regs.om.antialiasEn = false → k.cvbit = true) → c.regs.om.blend0.m1a = 0 →
        (blend1 c p q sa d k).1 = some { r := q.color.r, g := q.color.g, b := q.color.b })

/-! ## Texture coordinates and texels (44_texture_pipeline.md) -/

/-- R813, R118: a masked coordinate lies below 2^min(mask, 10); without mirror, and with mirror on an even repeat, it is the
coordinate modulo that power, with mirror on an odd repeat its complement. -/
def Obligations.WrapStaysInTheMask : Prop :=
  ∀ (x : TileAxis) (c : Int), x.mask ≠ 0 →
    0 ≤ wrapCoord x c ∧ wrapCoord x c < 2 ^ min x.mask 10 ∧
      (x.mirror = false → wrapCoord x c = c % 2 ^ min x.mask 10) ∧
      (x.mirror = true → c / 2 ^ min x.mask 10 % 2 = 0 → wrapCoord x c = c % 2 ^ min x.mask 10) ∧
      (x.mirror = true → c / 2 ^ min x.mask 10 % 2 = 1 → wrapCoord x c = 2 ^ min x.mask 10 - 1 - c % 2 ^ min x.mask 10)

/-- R823, R1109: under UNKNOWN_TEXEL's default a texel of a pair without a decode, each that R823 lists and formats 5 to 7, is
four free bytes, with one warning, for every free value. That a fetch is one texel, whatever its lane, so that each texel of a 2x2 sample warns and draws, is the model's
reading of R1109 (log entry 18); that a draw is `freeBits` of the counter `draws`, which it advances, is the model's form of R1202
(log entry 3). -/
def Obligations.UnknownTexelsAreFree : Prop :=
  ∀ (c : Ctx) (p : Pixel) (tl : Tile) (s t : Int) (lane : Nat), c.regs.om.enTlut = false →
    c.params.unknownTexel = .draw →
    5 ≤ tl.format.toNat ∨
      (tl.format.toNat, tl.size) ∈ [(0, PixSize.b4), (0, .b8), (2, .b16), (2, .b32), (3, .b32), (4, .b16), (4, .b32),
        (1, .b4), (1, .b8), (1, .b32)] →
    fetchTexel c p tl s t lane =
      .ok (drawnTexel (freeBits p.draws), { p with diag := p.diag ++ [.unknownTextureFormat], draws := p.draws + 1 })

end
end

