-- ==== Sys2Proof/Laws/Encode.lean ====
section
/-! SUPPORT. Reading a field of a packed word gives the field back, layout by layout: what a round trip of the encoder and the
decoder rests on. -/

namespace Sys2Proof

/-! ## Packed words -/

/-- Two fields share no bit. -/
def Field.apart (f g : Field) : Bool := Nat.ble (f.lo + f.len) g.lo || Nat.ble (g.lo + g.len) f.lo

/-- The fields lie in one word and share no bit. -/
def fieldsOk : List Field → Bool
  | [] => true
  | f :: fs => Nat.ble (f.lo + f.len) 64 && fs.all f.apart && fieldsOk fs

/-- The list names the field `[lo+len-1:lo]`. -/
def hasField (lo len : Nat) : List Field → Bool
  | [] => false
  | f :: fs => (Nat.beq f.lo lo && Nat.beq f.len len) || hasField lo len fs

/-- The value the list gives the field `[lo+len-1:lo]`. -/
def lookupField (lo len : Nat) : List Field → BitVec len
  | [] => 0
  | f :: fs => if Nat.beq f.lo lo && Nat.beq f.len len then f.val.setWidth len else lookupField lo len fs

theorem pack_getLsbD (fs : List Field) (i : Nat) :
    (pack fs).getLsbD i = fs.any (fun f => decide (i < 64) && decide (f.lo ≤ i) && f.val.getLsbD (i - f.lo)) := by
  induction fs with
  | nil => simp [pack]
  | cons f fs ih =>
    simp only [pack, BitVec.getLsbD_or, BitVec.getLsbD_shiftLeft, BitVec.getLsbD_setWidth, List.any_cons, ih]
    by_cases h64 : i < 64 <;> by_cases hlo : f.lo ≤ i
    · have h1 : ¬ i < f.lo := by omega
      have h2 : i - f.lo < 64 := by omega
      simp [h64, hlo, h1, h2]
    · have h1 : i < f.lo := by omega
      simp [hlo, h1]
    · simp [h64]
    · simp [h64]

theorem field_getLsbD (w : Word64) (lo len i : Nat) :
    (field w lo len).getLsbD i = (decide (i < len) && w.getLsbD (lo + i)) := by
  simp [field, BitVec.getLsbD_extractLsb']

/-- A field none of whose bits a list names is 0. -/
theorem field_pack_apart {fs : List Field} {lo len : Nat}
    (h : ∀ f ∈ fs, f.lo + f.len ≤ lo ∨ lo + len ≤ f.lo) : field (pack fs) lo len = 0 := by
  apply BitVec.eq_of_getLsbD_eq
  intro i hi
  have h0 : (0 : BitVec len).getLsbD i = false := by simp
  rw [h0, field_getLsbD, pack_getLsbD, List.any_eq_false.2 ?_, Bool.and_false]
  intro f hf
  rcases h f hf with h | h
  · rw [BitVec.getLsbD_of_ge f.val (lo + i - f.lo) (by omega)]
    simp
  · have h1 : ¬ f.lo ≤ lo + i := by omega
    simp [h1]

/-- The field of a packed word that the list names (R12). -/
theorem field_pack {fs : List Field} {lo len : Nat} (hok : fieldsOk fs = true) (hh : hasField lo len fs = true) :
    field (pack fs) lo len = lookupField lo len fs := by
  induction fs with
  | nil => cases hh
  | cons f fs ih =>
    simp only [fieldsOk, Bool.and_eq_true, Nat.ble_eq, List.all_eq_true, Field.apart, Bool.or_eq_true] at hok
    obtain ⟨⟨h64, hap⟩, hok⟩ := hok
    have hsplit : ∀ i, i < len → (field (pack (f :: fs)) lo len).getLsbD i =
        ((decide (lo + i < 64) && decide (f.lo ≤ lo + i) && f.val.getLsbD (lo + i - f.lo)) ||
          (field (pack fs) lo len).getLsbD i) := by
      intro i hi
      rw [field_getLsbD, field_getLsbD, pack_getLsbD, pack_getLsbD]
      simp [hi]
    by_cases he : f.lo = lo ∧ f.len = len
    · obtain ⟨h1, h2⟩ := he
      have h0 : field (pack fs) lo len = 0 := field_pack_apart (fun g hg => by have := hap g hg; omega)
      apply BitVec.eq_of_getLsbD_eq
      intro i hi
      rw [hsplit i hi, h0]
      have h3 : lo + i < 64 := by omega
      have h4 : f.lo ≤ lo + i := by omega
      have h5 : lo + i - f.lo = i := by omega
      simp [lookupField, h1, h2, hi, h3]
    · have hb : (Nat.beq f.lo lo && Nat.beq f.len len) = false := by
        cases h : (Nat.beq f.lo lo && Nat.beq f.len len) with
        | false => rfl
        | true =>
          simp only [Bool.and_eq_true, Nat.beq_eq] at h
          exact absurd h he
      have hh' : hasField lo len fs = true := by simpa [hasField, hb] using hh
      have hg : ∀ {gs : List Field}, hasField lo len gs = true → ∃ g ∈ gs, g.lo = lo ∧ g.len = len := by
        intro gs
        induction gs with
        | nil => intro h; cases h
        | cons g gs ih =>
          intro h
          simp only [hasField, Bool.or_eq_true, Bool.and_eq_true, Nat.beq_eq] at h
          rcases h with h | h
          · exact ⟨g, by simp, h⟩
          · obtain ⟨g', hg', h'⟩ := ih h
            exact ⟨g', by simp [hg'], h'⟩
      obtain ⟨g, hgm, hg1, hg2⟩ := hg hh'
      have hfg := hap g hgm
      rw [hg1, hg2] at hfg
      rw [show lookupField lo len (f :: fs) = lookupField lo len fs by simp only [lookupField, hb]; rfl, ← ih hok hh']
      apply BitVec.eq_of_getLsbD_eq
      intro i hi
      rw [hsplit i hi]
      rcases hfg with h | h
      · rw [BitVec.getLsbD_of_ge _ (lo + i - f.lo) (by omega)]; simp
      · have : ¬ f.lo ≤ lo + i := by omega
        simp [this]

theorem bit_field (w : Word64) (i : Nat) : bit w i = (field w i 1).getLsbD 0 := by
  rw [field_getLsbD]
  simp [bit]

theorem bit_pack {fs : List Field} {i : Nat} (hok : fieldsOk fs = true) (hh : hasField i 1 fs = true) :
    bit (pack fs) i = (lookupField i 1 fs).getLsbD 0 := by rw [bit_field, field_pack hok hh]

/-- The fields a list names, as one rule to rewrite by. -/
theorem field_named {fs : List Field} (hok : fieldsOk fs = true) (lo len : Nat) (hh : hasField lo len fs = true) :
    field (pack fs) lo len = lookupField lo len fs := field_pack hok hh

/-- The flags a list names, as one rule to rewrite by. -/
theorem bit_named {fs : List Field} (hok : fieldsOk fs = true) (i : Nat) (hh : hasField i 1 fs = true) :
    bit (pack fs) i = (lookupField i 1 fs).getLsbD 0 := bit_pack hok hh

/-! ## Enumerated fields -/

@[simp] theorem CycleType.ofBits_bits (x : CycleType) : CycleType.ofBits x.bits = x := by cases x <;> rfl
@[simp] theorem PixSize.ofBits_bits (x : PixSize) : PixSize.ofBits x.bits = x := by cases x <;> rfl
@[simp] theorem ZMode.ofBits_bits (x : ZMode) : ZMode.ofBits x.bits = x := by cases x <;> rfl
@[simp] theorem CvgDest.ofBits_bits (x : CvgDest) : CvgDest.ofBits x.bits = x := by cases x <;> rfl
@[simp] theorem RgbDitherSel.ofBits_bits (x : RgbDitherSel) : RgbDitherSel.ofBits x.bits = x := by cases x <;> rfl
@[simp] theorem AlphaDitherSel.ofBits_bits (x : AlphaDitherSel) : AlphaDitherSel.ofBits x.bits = x := by cases x <;> rfl

/-! ## Layouts -/

theorem opcode_packOp (op : BitVec 6) {fs : List Field} (hok : fieldsOk (fld 56 op :: fs) = true) :
    opcode (packOp op fs) = op := by
  unfold opcode packOp
  rw [field_pack hok rfl]
  simp [lookupField, fld]

theorem decodeOtherModes_pack (op : BitVec 6) (m : OtherModes) :
    decodeOtherModes (packOp op (otherModesFields m)) = m := by
  have hf : ∀ lo len, hasField lo len (fld 56 op :: otherModesFields m) = true →
      field (packOp op (otherModesFields m)) lo len = lookupField lo len (fld 56 op :: otherModesFields m) :=
    fun lo len h => field_pack rfl h
  have hb : ∀ i, hasField i 1 (fld 56 op :: otherModesFields m) = true →
      bit (packOp op (otherModesFields m)) i = (lookupField i 1 (fld 56 op :: otherModesFields m)).getLsbD 0 :=
    fun i h => bit_pack rfl h
  unfold decodeOtherModes
  rw [hf 52 2 rfl, hf 38 2 rfl, hf 36 2 rfl, hf 30 2 rfl, hf 28 2 rfl, hf 26 2 rfl, hf 24 2 rfl, hf 22 2 rfl, hf 20 2 rfl,
    hf 18 2 rfl, hf 16 2 rfl, hf 10 2 rfl, hf 8 2 rfl, hb 55 rfl, hb 51 rfl, hb 50 rfl, hb 49 rfl, hb 48 rfl, hb 47 rfl,
    hb 46 rfl, hb 45 rfl, hb 44 rfl, hb 43 rfl, hb 42 rfl, hb 41 rfl, hb 40 rfl, hb 14 rfl, hb 13 rfl, hb 12 rfl, hb 7 rfl,
    hb 6 rfl, hb 5 rfl, hb 4 rfl, hb 3 rfl, hb 2 rfl, hb 1 rfl, hb 0 rfl]
  simp [lookupField, otherModesFields, fld, flag]

/-- The width field of R313 gives the width back over all of its range. -/
theorem width_field (w : BitVec 11) (h1 : 1 ≤ w.toNat) (h2 : w.toNat ≤ 1024) :
    ((w - 1#11).setWidth 10).setWidth 11 + 1#11 = w := by
  bv_omega

/-- R310. -/
theorem decodeColor_pack (op : BitVec 6) (c : Rgba8) :
    decodeColor (packOp op (colorFields c)) = c := by
  have h := field_named (fs := fld 56 op :: colorFields c) rfl
  simp only [decodeColor, packOp, h 24 8 rfl, h 16 8 rfl, h 8 8 rfl, h 0 8 rfl]
  simp [lookupField, colorFields, fld]

/-- SET_PRIM_COLOR (R414). -/
theorem decodePrimColor_pack (op : BitVec 6) (l : BitVec 5) (f : BitVec 8) (c : Rgba8) :
    decodeColor (packOp op (fld 40 l :: fld 32 f :: colorFields c)) = c ∧
    field (packOp op (fld 40 l :: fld 32 f :: colorFields c)) 40 5 = l ∧
    field (packOp op (fld 40 l :: fld 32 f :: colorFields c)) 32 8 = f := by
  have h := field_named (fs := fld 56 op :: fld 40 l :: fld 32 f :: colorFields c) rfl
  simp only [decodeColor, packOp, h 24 8 rfl, h 16 8 rfl, h 8 8 rfl, h 0 8 rfl, h 40 5 rfl, h 32 8 rfl]
  simp [lookupField, colorFields, fld]

/-- R312. -/
theorem decodeCombine_pack (op : BitVec 6) (m : CombineMode) :
    decodeCombine (packOp op (combineFields m)) = m := by
  have h := field_named (fs := fld 56 op :: combineFields m) rfl
  simp only [decodeCombine, packOp, h 52 4 rfl, h 28 4 rfl, h 47 5 rfl, h 15 3 rfl, h 44 3 rfl, h 12 3 rfl, h 41 3 rfl,
      h 9 3 rfl, h 37 4 rfl, h 24 4 rfl, h 32 5 rfl, h 6 3 rfl, h 21 3 rfl, h 3 3 rfl, h 18 3 rfl, h 0 3 rfl]
  simp [lookupField, combineFields, fld]

/-- R313. -/
theorem decodeImage_pack (op : BitVec 6) {d : ImageDesc} (hd : d.widthOk = true) :
    decodeImage (packOp op (imageFields d)) = d := by
  simp only [ImageDesc.widthOk, Bool.and_eq_true, decide_eq_true_eq] at hd
  have h := field_named (fs := fld 56 op :: imageFields d) rfl
  simp only [decodeImage, packOp, h 53 3 rfl, h 51 2 rfl, h 32 10 rfl, h 0 26 rfl]
  simp [lookupField, imageFields, fld, width_field _ hd.1 hd.2]

/-- R314. -/
theorem decodeTileMode_pack (op : BitVec 6) (n : BitVec 3) (m : TileMode) :
    decodeTileMode (packOp op (fld 24 n :: tileModeFields m)) = m ∧
    decodeTile (packOp op (fld 24 n :: tileModeFields m)) = n := by
  have h := field_named (fs := fld 56 op :: fld 24 n :: tileModeFields m) rfl
  have hb := bit_named (fs := fld 56 op :: fld 24 n :: tileModeFields m) rfl
  simp only [decodeTileMode, decodeTile, packOp, h 53 3 rfl, h 51 2 rfl, h 41 9 rfl, h 32 9 rfl, h 20 4 rfl, h 14 4 rfl,
      h 10 4 rfl, h 4 4 rfl, h 0 4 rfl, h 24 3 rfl, hb 19 rfl, hb 18 rfl, hb 9 rfl, hb 8 rfl]
  simp [lookupField, tileModeFields, fld, flag]

/-- R315. -/
theorem decodeBounds_pack (op : BitVec 6) (n : BitVec 3) (b : TileBounds) :
    decodeBounds (packOp op (fld 24 n :: boundsFields b)) = b ∧
    decodeTile (packOp op (fld 24 n :: boundsFields b)) = n := by
  have h := field_named (fs := fld 56 op :: fld 24 n :: boundsFields b) rfl
  simp only [decodeBounds, decodeTile, packOp, h 44 12 rfl, h 32 12 rfl, h 12 12 rfl, h 0 12 rfl, h 24 3 rfl]
  simp [lookupField, boundsFields, fld]

/-- R317, FILL_RECT. -/
theorem decodeRect_pack (op : BitVec 6) (r : Rect) :
    decodeRect (packOp op (rectFields r)) = r := by
  have h := field_named (fs := fld 56 op :: rectFields r) rfl
  simp only [decodeRect, packOp, h 44 12 rfl, h 32 12 rfl, h 12 12 rfl, h 0 12 rfl]
  simp [lookupField, rectFields, fld]

/-- R317, word 0 of a texture rectangle. -/
theorem decodeTexRect_pack (op : BitVec 6) (n : BitVec 3) (r : Rect) :
    decodeRect (packOp op (fld 24 n :: rectFields r)) = r ∧
    decodeTile (packOp op (fld 24 n :: rectFields r)) = n := by
  have h := field_named (fs := fld 56 op :: fld 24 n :: rectFields r) rfl
  simp only [decodeRect, decodeTile, packOp, h 44 12 rfl, h 32 12 rfl, h 12 12 rfl, h 0 12 rfl, h 24 3 rfl]
  simp [lookupField, rectFields, fld]

/-- R316. -/
theorem decodeScissor_pack (op : BitVec 6) (r : Rect) (f k : Bool) :
    decodeScissor (packOp op (flag 25 f :: flag 24 k :: scissorFields r)) = r ∧
    bit (packOp op (flag 25 f :: flag 24 k :: scissorFields r)) 25 = f ∧
    bit (packOp op (flag 25 f :: flag 24 k :: scissorFields r)) 24 = k := by
  have h := field_named (fs := fld 56 op :: flag 25 f :: flag 24 k :: scissorFields r) rfl
  have hb := bit_named (fs := fld 56 op :: flag 25 f :: flag 24 k :: scissorFields r) rfl
  simp only [decodeScissor, packOp, h 44 12 rfl, h 32 12 rfl, h 12 12 rfl, h 0 12 rfl, hb 25 rfl, hb 24 rfl]
  simp [lookupField, scissorFields, fld, flag]

/-- R317, word 1. -/
theorem decodeRectTex_encode (x : RectTex) :
    decodeRectTex (encodeRectTex x) = x := by
  have h := field_named (fs := [fld 48 x.s, fld 32 x.t, fld 16 x.dsdx, fld 0 x.dtdy]) rfl
  simp only [decodeRectTex, encodeRectTex, h 48 16 rfl, h 32 16 rfl, h 16 16 rfl, h 0 16 rfl]
  simp [lookupField, fld]

/-- R319, one word. -/
theorem fourHalves_field (a b c d : BitVec 16) :
    field (fourHalves a b c d) 48 16 = a ∧ field (fourHalves a b c d) 32 16 = b ∧
    field (fourHalves a b c d) 16 16 = c ∧ field (fourHalves a b c d) 0 16 = d := by
  have h := field_named (fs := [fld 48 a, fld 32 b, fld 16 c, fld 0 d]) rfl
  simp only [fourHalves, h 48 16 rfl, h 32 16 rfl, h 16 16 rfl, h 0 16 rfl]
  simp [lookupField, fld]

/-- R321, one word. -/
theorem twoWords_field (a b : BitVec 32) :
    field (pack [fld 32 a, fld 0 b]) 32 32 = a ∧ field (pack [fld 32 a, fld 0 b]) 0 32 = b := by
  have h := field_named (fs := [fld 32 a, fld 0 b]) rfl
  simp only [h 32 32 rfl, h 0 32 rfl]
  simp [lookupField, fld]

/-- R318, words 1 to 3. -/
theorem edgePair_field (x : BitVec 28) (d : BitVec 30) :
    field (pack [fld 32 x, fld 0 d]) 32 28 = x ∧ field (pack [fld 32 x, fld 0 d]) 0 30 = d := by
  have h := field_named (fs := [fld 32 x, fld 0 d]) rfl
  simp only [h 32 28 rfl, h 0 30 rfl]
  simp [lookupField, fld]

/-- R318. -/
theorem decodeEdge_encode (op : BitVec 6) (e : EdgeCoeffs) (ws : List Word64) :
    decodeEdge (encodeEdge op e ++ ws) = e ∧ opcode (wordAt (encodeEdge op e ++ ws) 0) = op := by
  have h := field_named (fs := [fld 56 op, flag 55 e.flip, fld 51 e.maxLevel, fld 48 e.tile, fld 32 e.yl, fld 16 e.ym,
    fld 0 e.yh]) rfl
  have hb := bit_named (fs := [fld 56 op, flag 55 e.flip, fld 51 e.maxLevel, fld 48 e.tile, fld 32 e.yl, fld 16 e.ym,
    fld 0 e.yh]) rfl
  unfold decodeEdge encodeEdge packOp opcode
  simp only [wordAt, List.cons_append, List.nil_append, List.getD_cons_zero, List.getD_cons_succ, h 51 3 rfl, h 48 3 rfl,
    h 32 14 rfl, h 16 14 rfl, h 0 14 rfl, h 56 6 rfl, hb 55 rfl, edgePair_field]
  simp [lookupField, fld, flag]

/-- The two halves of an attribute value make it (R319). -/
theorem halves_append (v : BitVec 32) : intHalf v ++ fracHalf v = v := by
  unfold intHalf fracHalf
  apply BitVec.eq_of_getLsbD_eq
  intro i hi
  simp only [BitVec.getLsbD_append, BitVec.getLsbD_extractLsb']
  by_cases h : i < 16
  · simp [h]
  · have h1 : i - 16 < 16 := by omega
    have h2 : 16 + (i - 16) = i := by omega
    simp [h, h1, h2]

theorem decodeChannels_encode (pre post : List Word64) (a b c d : Coeff) :
    decodeChannel (pre ++ (encodeChannels a b c d ++ post)) pre.length 48 = a ∧
    decodeChannel (pre ++ (encodeChannels a b c d ++ post)) pre.length 32 = b ∧
    decodeChannel (pre ++ (encodeChannels a b c d ++ post)) pre.length 16 = c ∧
    decodeChannel (pre ++ (encodeChannels a b c d ++ post)) pre.length 0 = d := by
  have h : ∀ k,
      wordAt (pre ++ (encodeChannels a b c d ++ post)) (pre.length + k) = wordAt (encodeChannels a b c d ++ post) k := by
    intro k
    simp [wordAt, List.getElem?_append_right]
  have h0 := h 0
  rw [Nat.add_zero] at h0
  unfold decodeChannel
  rw [h0, h 1, h 2, h 3, h 4, h 5, h 6, h 7]
  simp [wordAt, encodeChannels, fourHalves_field, halves_append]

theorem decodeShade_encode (pre post : List Word64) (c : ShadeCoeffs) :
    decodeShade (pre ++ (encodeShade c ++ post)) pre.length = c := by
  obtain ⟨h1, h2, h3, h4⟩ := decodeChannels_encode pre post c.r c.g c.b c.a
  simp only [decodeShade, encodeShade, h1, h2, h3, h4]

theorem decodeTexCoeffs_encode (pre post : List Word64) (t : TexCoeffs) :
    decodeTexCoeffs (pre ++ (encodeTexCoeffs t ++ post)) pre.length = t := by
  obtain ⟨h1, h2, h3, _⟩ := decodeChannels_encode pre post t.s t.t t.w Coeff.zero
  simp only [decodeTexCoeffs, encodeTexCoeffs, h1, h2, h3]

/-- R321. -/
theorem decodeDepth_encode (pre : List Word64) (z : Coeff) : decodeDepth (pre ++ encodeDepth z) pre.length = z := by
  have h : ∀ k, wordAt (pre ++ encodeDepth z) (pre.length + k) = wordAt (encodeDepth z) k := by
    intro k
    simp [wordAt, List.getElem?_append_right]
  have h0 := h 0
  rw [Nat.add_zero] at h0
  unfold decodeDepth
  rw [h0, h 1]
  simp only [wordAt, encodeDepth, List.getD_cons_zero, List.getD_cons_succ, twoWords_field]

end Sys2Proof
end

