-- ==== Sys2Proof/Laws/Loops.lean ====
section
/-! SUPPORT. The two loops: an invariant is kept through a loop, a loop whose rounds never fault never faults. -/

namespace Sys2Proof.Machine

variable {σ : Type}

/-- A property every round keeps holds of what the loop answers. -/
theorem forE_inv {f : Nat → σ → Except Fault σ} {Q : σ → Prop} :
    ∀ {n i : Nat} {s s' : σ}, (∀ j t t', i ≤ j → j < i + n → Q t → f j t = .ok t' → Q t') → Q s →
      forE f i n s = .ok s' → Q s'
  | 0, _, _, _, _, hs, h => by
    simp only [forE, Except.ok.injEq] at h
    exact h ▸ hs
  | n + 1, i, s, s', hstep, hs, h => by
    simp only [forE] at h
    split at h
    · rename_i t ht
      exact forE_inv (fun j u u' h1 h2 => hstep j u u' (by omega) (by omega)) (hstep i s t (by omega) (by omega) hs ht) h
    · exact absurd h (by simp)

/-- A loop whose rounds answer under a kept property answers, with the property. -/
theorem forE_total {f : Nat → σ → Except Fault σ} {Q : σ → Prop} :
    ∀ {n i : Nat} {s : σ}, (∀ j t, i ≤ j → j < i + n → Q t → ∃ t', f j t = .ok t' ∧ Q t') → Q s →
      ∃ s', forE f i n s = .ok s' ∧ Q s'
  | 0, _, s, _, hs => ⟨s, rfl, hs⟩
  | n + 1, i, s, hstep, hs => by
    obtain ⟨t, ht, hq⟩ := hstep i s (by omega) (by omega) hs
    obtain ⟨s', h1, h2⟩ := forE_total (n := n) (i := i + 1) (s := t) (fun j u h1 h2 => hstep j u (by omega) (by omega)) hq
    exact ⟨s', by simp only [forE, ht, h1], h2⟩

/-- A loop whose rounds always answer answers. -/
theorem forE_answers {f : Nat → σ → Except Fault σ} {n i : Nat} (h : ∀ j t, i ≤ j → j < i + n → ∃ t', f j t = .ok t') (s : σ) :
    ∃ s', forE f i n s = .ok s' := by
  obtain ⟨s', h', _⟩ := forE_total (Q := fun _ => True) (s := s)
    (fun j t h1 h2 _ => by obtain ⟨t', ht⟩ := h j t h1 h2; exact ⟨t', ht, trivial⟩) trivial
  exact ⟨s', h'⟩

/-- A fault of a loop is the fault of one of its rounds. -/
theorem forE_error {f : Nat → σ → Except Fault σ} {e : Fault} :
    ∀ {n i : Nat} {s : σ}, forE f i n s = .error e → ∃ j t, i ≤ j ∧ j < i + n ∧ f j t = .error e
  | 0, _, _, h => by simp [forE] at h
  | n + 1, i, s, h => by
    simp only [forE] at h
    split at h
    · obtain ⟨j, t, h1, h2, h3⟩ := forE_error h
      exact ⟨j, t, by omega, by omega, h3⟩
    · rename_i e' he
      exact ⟨i, s, by omega, by omega, by rw [he]; simpa using h⟩

/-- A property every round keeps holds after a loop without faults. -/
theorem forP_inv {f : Nat → σ → σ} {Q : σ → Prop} :
    ∀ {n i : Nat} {s : σ}, (∀ j t, i ≤ j → j < i + n → Q t → Q (f j t)) → Q s → Q (forP f i n s)
  | 0, _, _, _, hs => hs
  | n + 1, i, s, hstep, hs =>
    forP_inv (n := n) (i := i + 1) (s := f i s) (fun j t h1 h2 => hstep j t (by omega) (by omega))
      (hstep i s (by omega) (by omega) hs)

end Sys2Proof.Machine
end

