-- ==== Sys2Proof/Laws/Sparse.lean ====
section
/-! SUPPORT. Sparse lists: a store keeps the canonical form and the bound, a read after a write, and two canonical lists with
equal contents are equal. `u` is what an unlisted index reads as, `d` what it is known to hold. -/

namespace Sys2Proof.Machine

variable {α : Type} [DecidableEq α] {d : Option α} {u : α}

theorem sparseWfFrom_mono {lo lo' : Nat} (h : lo' ≤ lo) :
    ∀ {m : List (Nat × α)}, sparseWfFrom d lo m = true → sparseWfFrom d lo' m = true
  | [], _ => rfl
  | (k, v) :: rest, hw => by
    simp only [sparseWfFrom, Bool.and_eq_true, decide_eq_true_eq] at hw ⊢
    exact ⟨⟨by omega, hw.1.2⟩, hw.2⟩

theorem sparseGet_below {lo : Nat} : ∀ {m : List (Nat × α)} {k : Nat}, sparseWfFrom d lo m = true → k < lo →
    sparseGet u m k = u
  | [], _, _, _ => rfl
  | (j, v) :: rest, k, hw, hk => by
    simp only [sparseWfFrom, Bool.and_eq_true, decide_eq_true_eq] at hw
    simp only [sparseGet]
    rw [if_neg (by omega), if_pos (by omega)]

theorem sparseCons_wf {lo k : Nat} {v : α} {m : List (Nat × α)} (hk : lo ≤ k) (hm : sparseWfFrom d (k + 1) m = true) :
    sparseWfFrom d lo (sparseCons d k v m) = true := by
  unfold sparseCons
  split
  · exact sparseWfFrom_mono (by omega) hm
  · rename_i h
    simp [sparseWfFrom, hk, h, hm]

theorem sparsePut_wfFrom : ∀ {m : List (Nat × α)} {lo k : Nat} {v : α}, sparseWfFrom d lo m = true → lo ≤ k →
    sparseWfFrom d lo (sparsePut d m k v) = true
  | [], lo, k, v, _, hk => sparseCons_wf hk rfl
  | (j, u) :: rest, lo, k, v, hw, hk => by
    simp only [sparseWfFrom, Bool.and_eq_true, decide_eq_true_eq] at hw
    simp only [sparsePut]
    split
    · rename_i h
      subst h
      exact sparseCons_wf hk hw.2
    · split
      · exact sparseCons_wf hk (by simp [sparseWfFrom, hw.1.2, hw.2]; omega)
      · simp only [sparseWfFrom, Bool.and_eq_true, decide_eq_true_eq]
        exact ⟨hw.1, sparsePut_wfFrom hw.2 (by omega)⟩

/-- A store keeps the canonical form. -/
theorem sparsePut_wf {m : List (Nat × α)} (k : Nat) (v : α) (h : sparseWf d m = true) :
    sparseWf d (sparsePut d m k v) = true := sparsePut_wfFrom h (Nat.zero_le k)

theorem sparseCons_below {n k : Nat} {v : α} {m : List (Nat × α)} (hk : k < n) (hm : sparseBelow n m = true) :
    sparseBelow n (sparseCons d k v m) = true := by
  unfold sparseCons
  split
  · exact hm
  · simpa [sparseBelow, hk] using hm

/-- A store at an index within the bound keeps the bound. -/
theorem sparsePut_below : ∀ {m : List (Nat × α)} {n k : Nat} {v : α}, sparseBelow n m = true → k < n →
    sparseBelow n (sparsePut d m k v) = true
  | [], n, k, v, _, hk => sparseCons_below hk rfl
  | (j, u) :: rest, n, k, v, hm, hk => by
    have hj : j < n := by simp only [sparseBelow, List.all_cons, Bool.and_eq_true, decide_eq_true_eq] at hm; exact hm.1
    have hr : sparseBelow n rest = true := by
      simp only [sparseBelow, List.all_cons, Bool.and_eq_true] at hm ⊢; exact hm.2
    simp only [sparsePut]
    split
    · exact sparseCons_below hk hr
    · split
      · exact sparseCons_below hk hm
      · have := sparsePut_below (v := v) hr hk
        simp only [sparseBelow, List.all_cons, Bool.and_eq_true, decide_eq_true_eq] at this ⊢
        exact ⟨hj, this⟩

theorem sparseGet_cons (hd : ∀ x, d = some x → x = u) {k : Nat} {v : α} {m : List (Nat × α)}
    (hm : sparseWfFrom d (k + 1) m = true) (i : Nat) :
    sparseGet u (sparseCons d k v m) i = if i = k then v else sparseGet u m i := by
  unfold sparseCons
  split
  · rename_i h
    split
    · rw [sparseGet_below hm (by omega), hd v h]
    · rfl
  · simp only [sparseGet]
    by_cases hik : i = k
    · simp [hik]
    · rw [if_neg (by omega), if_neg hik]
      split
      · rw [sparseGet_below hm (by omega)]
      · rfl

/-- Reading after a store, in a canonical list. -/
theorem sparseGet_put_from (hd : ∀ x, d = some x → x = u) : ∀ {m : List (Nat × α)} {lo k : Nat} {v : α},
    sparseWfFrom d lo m = true → ∀ i, sparseGet u (sparsePut d m k v) i = if i = k then v else sparseGet u m i
  | [], lo, k, v, _, i => by
    simpa [sparsePut, sparseGet] using sparseGet_cons (d := d) hd (k := k) (v := v) (m := []) rfl i
  | (j, w) :: rest, lo, k, v, hw, i => by
    have hw' := hw
    simp only [sparseWfFrom, Bool.and_eq_true, decide_eq_true_eq] at hw
    simp only [sparsePut]
    split
    · rename_i h
      subst h
      rw [sparseGet_cons hd hw.2]
      by_cases hi : i = j
      · simp [hi]
      · rw [if_neg hi, if_neg hi]
        simp only [sparseGet]
        rw [if_neg (by omega)]
        split
        · exact sparseGet_below hw.2 (by omega)
        · rfl
    · split
      · rw [sparseGet_cons hd]
        simp [sparseWfFrom, hw.1.2, hw.2]; omega
      · rename_i h1 h2
        simp only [sparseGet]
        by_cases hij : j = i
        · rw [if_pos hij, if_neg (by omega), if_pos hij]
        · rw [if_neg hij, if_neg hij]
          by_cases hlt : i < j
          · rw [if_pos hlt, if_pos hlt, if_neg (by omega)]
          · rw [if_neg hlt, if_neg hlt]
            exact sparseGet_put_from hd hw.2 i

/-- Reading after a store: the value stored, and elsewhere what was there. -/
theorem sparseGet_put (hd : ∀ x, d = some x → x = u) {m : List (Nat × α)} (h : sparseWf d m = true) (k : Nat) (v : α)
    (i : Nat) : sparseGet u (sparsePut d m k v) i = if i = k then v else sparseGet u m i := sparseGet_put_from hd h i

/-- Reading after a store, where an unlisted index is known to hold what it reads as. -/
theorem sparseGet_put_some {m : List (Nat × α)} (h : sparseWf (some u) m = true) (k : Nat) (v : α) (i : Nat) :
    sparseGet u (sparsePut (some u) m k v) i = if i = k then v else sparseGet u m i :=
  sparseGet_put (fun _ hx => (Option.some.inj hx).symm) h k v i

theorem sparse_ext_from : ∀ {m m' : List (Nat × α)} {lo lo' : Nat}, sparseWfFrom (some u) lo m = true →
    sparseWfFrom (some u) lo' m' = true → (∀ i, sparseGet u m i = sparseGet u m' i) → m = m'
  | [], [], _, _, _, _, _ => rfl
  | [], (j, v) :: rest, _, _, _, hw, h => by
    simp only [sparseWfFrom, Bool.and_eq_true, decide_eq_true_eq] at hw
    have := h j
    simp only [sparseGet, if_true] at this
    exact absurd (congrArg some this) hw.1.2
  | (j, v) :: rest, [], _, _, hw, _, h => by
    simp only [sparseWfFrom, Bool.and_eq_true, decide_eq_true_eq] at hw
    have := h j
    simp only [sparseGet, if_true] at this
    exact absurd (congrArg some this.symm) hw.1.2
  | (j, v) :: rest, (j', v') :: rest', _, _, hw, hw', h => by
    simp only [sparseWfFrom, Bool.and_eq_true, decide_eq_true_eq] at hw hw'
    have hjj : j = j' := by
      rcases Nat.lt_trichotomy j j' with hlt | heq | hgt
      · have := h j
        simp only [sparseGet, if_true] at this
        rw [if_neg (by omega), if_pos hlt] at this
        exact absurd (congrArg some this.symm) hw.1.2
      · exact heq
      · have := h j'
        simp only [sparseGet, if_true] at this
        rw [if_neg (by omega), if_pos hgt] at this
        exact absurd (congrArg some this) hw'.1.2
    subst hjj
    have hv : v = v' := by simpa [sparseGet] using h j
    subst hv
    have : rest = rest' := sparse_ext_from hw.2 hw'.2 (fun i => by
      by_cases hi : i ≤ j
      · rw [sparseGet_below hw.2 (by omega), sparseGet_below hw'.2 (by omega)]
      · have := h i
        simp only [sparseGet] at this
        rwa [if_neg (by omega), if_neg (by omega), if_neg (by omega), if_neg (by omega)] at this)
    rw [this]

/-- Canonical lists with equal contents are equal data. -/
theorem sparse_ext {m m' : List (Nat × α)} (h : sparseWf (some u) m = true) (h' : sparseWf (some u) m' = true)
    (hg : ∀ i, sparseGet u m i = sparseGet u m' i) : m = m' := sparse_ext_from h h' hg

end Sys2Proof.Machine
end

