-- ==== Sys2Proof/Laws/Memory.lean ====
section
/-! SUPPORT. Host memory and TMEM: every operation keeps the canonical form and the bounds, accesses are total under
`accessOk`, and what a byte reads as after a store. -/

namespace Sys2Proof.Machine

open Sys2Proof.Config

theorem iand_le (a : Int) (m : Nat) : iand a m ≤ m := by
  cases a with
  | ofNat a => exact Nat.and_le_right
  | negSucc b => exact Nat.sub_le _ _

theorem maskAddr_le (P : Params) (a : Int) : maskAddr P a ≤ P.addrMask := iand_le a P.addrMask

theorem iand_lt (a : Int) {m n : Nat} (h : m < n) : iand a m < n := lt_of_le_of_lt (iand_le a m) h

/-! ## Range -/

/-- An access has no byte out of range exactly when every byte's address lies below RDRAM_SIZE (R209). -/
theorem outOfRange_eq_none {P : Params} {a : Int} {n : Nat} :
    outOfRange P a n = none ↔ ∀ i < n, maskAddr P (a + i) < P.rdramSize := by
  simp [outOfRange]

theorem outOfRange_of_lt {P : Params} (h : P.addrMask < P.rdramSize) (a : Int) (n : Nat) : outOfRange P a n = none :=
  outOfRange_eq_none.2 (fun _ _ => lt_of_le_of_lt (maskAddr_le P _) h)

/-- Everything a read can answer (R205, R209). -/
theorem memRead_cases (P : Params) (m : HostMem) (a : Int) (n : Nat) :
    (outOfRange P a n = none ∧ memRead P m a n = .ok (readBytes P m a n)) ∨
    (∃ x, outOfRange P a n = some x ∧ P.oobMode = .fault ∧ memRead P m a n = .error (.outOfRange x)) ∨
    (∃ x, outOfRange P a n = some x ∧ P.oobMode = .ignore ∧ memRead P m a n = .ok 0) := by
  unfold memRead
  cases h : outOfRange P a n with
  | none => exact .inl ⟨rfl, rfl⟩
  | some x =>
    cases ho : P.oobMode with
    | fault => exact .inr (.inl ⟨x, rfl, rfl, rfl⟩)
    | ignore => exact .inr (.inr ⟨x, rfl, rfl, rfl⟩)

/-- Everything a write can answer (R205, R209). -/
theorem writeIf_cases (P : Params) (m : HostMem) (a : Int) (n : Nat) (m' : HostMem) :
    (outOfRange P a n = none ∧ writeIf P m a n m' = .ok m') ∨
    (∃ x, outOfRange P a n = some x ∧ P.oobMode = .fault ∧ writeIf P m a n m' = .error (.outOfRange x)) ∨
    (∃ x, outOfRange P a n = some x ∧ P.oobMode = .ignore ∧ writeIf P m a n m' = .ok m) := by
  unfold writeIf
  cases h : outOfRange P a n with
  | none => exact .inl ⟨rfl, rfl⟩
  | some x =>
    cases ho : P.oobMode with
    | fault => exact .inr (.inl ⟨x, rfl, rfl, rfl⟩)
    | ignore => exact .inr (.inr ⟨x, rfl, rfl, rfl⟩)

theorem memRead_total {P : Params} {a : Int} {n : Nat} (h : accessOk P a n) (m : HostMem) : ∃ v, memRead P m a n = .ok v := by
  rcases memRead_cases P m a n with ⟨_, h'⟩ | ⟨x, hx, ho, _⟩ | ⟨x, _, _, h'⟩
  · exact ⟨_, h'⟩
  · rcases h with h | h
    · rw [h] at ho; cases ho
    · rw [h] at hx; cases hx
  · exact ⟨_, h'⟩

/-- A write answers exactly if its bytes are in range or accesses beyond are ignored; it then left its result, or nothing
(R209). -/
theorem writeIf_ok {P : Params} {m m' r : HostMem} {a : Int} {n : Nat} (h : writeIf P m a n m' = .ok r) :
    (outOfRange P a n = none ∧ r = m') ∨ r = m := by
  rcases writeIf_cases P m a n m' with ⟨ho, h'⟩ | ⟨x, _, _, h'⟩ | ⟨x, _, _, h'⟩ <;> rw [h] at h'
  · exact .inl ⟨ho, Except.ok.inj h'⟩
  · cases h'
  · exact .inr (Except.ok.inj h')

theorem writeIf_total {P : Params} {a : Int} {n : Nat} (h : accessOk P a n) (m m' : HostMem) :
    ∃ r, writeIf P m a n m' = .ok r := by
  rcases writeIf_cases P m a n m' with ⟨_, h'⟩ | ⟨x, hx, ho, _⟩ | ⟨x, _, _, h'⟩
  · exact ⟨_, h'⟩
  · rcases h with h | h
    · rw [h] at ho; cases ho
    · rw [h] at hx; cases hx
  · exact ⟨_, h'⟩

/-! ## Values -/

theorem readBytes_one (P : Params) (m : HostMem) (a : Int) : readBytes P m a 1 = (m.byte (maskAddr P a)).toNat := by
  simp [readBytes, List.range_succ]

theorem foldl_digits_lt (f : Nat → Nat) (hf : ∀ i, f i < 256) (n : Nat) :
    (List.range n).foldl (fun v i => v * 256 + f i) 0 < 256 ^ n := by
  induction n with
  | zero => simp
  | succ n ih =>
    rw [List.range_succ, List.foldl_append]
    simp only [List.foldl_cons, List.foldl_nil]
    have := hf n
    calc _ < ((List.range n).foldl (fun v i => v * 256 + f i) 0 + 1) * 256 := by omega
      _ ≤ 256 ^ n * 256 := Nat.mul_le_mul_right _ ih
      _ = 256 ^ (n + 1) := (Nat.pow_succ ..).symm

/-- A read of `n` bytes is below 256^n (R205). -/
theorem memRead_lt {P : Params} {m : HostMem} {a : Int} {n v : Nat} (h : memRead P m a n = .ok v) : v < 256 ^ n := by
  rcases memRead_cases P m a n with ⟨_, h'⟩ | ⟨x, _, _, h'⟩ | ⟨x, _, _, h'⟩ <;> rw [h] at h'
  · rw [Except.ok.inj h']
    exact foldl_digits_lt (fun i => (m.byte (maskAddr P (a + i))).toNat) (fun i => (m.byte _).isLt) n
  · cases h'
  · rw [Except.ok.inj h']; exact Nat.pow_pos (by decide)

theorem hidRead_lt (P : Params) (m : HostMem) (h : Int) : hidRead P m h < 4 := by
  unfold hidRead
  split
  · exact (m.hidden _).isLt
  · decide

/-! ## The canonical form -/

/-- Parts of the host-memory invariant. -/
theorem hostInv_iff {P : Params} {m : HostMem} :
    hostInv P m = true ↔
      (sparseWf (Memory.knownUnlisted 8 m.init) m.mem = true ∧
        sparseWf (Memory.knownUnlisted 2 m.init) m.hid = true) ∧
        sparseBelow P.rdramSize m.mem = true ∧ sparseBelow ((P.rdramSize + 1) / 2) m.hid = true := by
  simp [hostInv, Memory.wf, and_assoc]

theorem setByte_inv {P : Params} {m : HostMem} {a : Nat} (v : Byte) (h : hostInv P m = true) (ha : a < P.rdramSize) :
    hostInv P (m.setByte a v) = true := by
  rw [hostInv_iff] at h ⊢
  exact ⟨⟨sparsePut_wf _ _ h.1.1, h.1.2⟩, sparsePut_below h.2.1 ha, h.2.2⟩

theorem writeBytes_inv {P : Params} {m : HostMem} {a : Int} {n : Nat} (v : Nat) (h : hostInv P m = true)
    (ho : outOfRange P a n = none) : hostInv P (writeBytes P m a n v) = true := by
  rw [outOfRange_eq_none] at ho
  unfold writeBytes
  generalize hl : List.range n = l
  have hl' : ∀ i ∈ l, i < n := fun i hi => by rw [← hl] at hi; exact List.mem_range.1 hi
  clear hl
  induction l generalizing m with
  | nil => exact h
  | cons i l ih =>
    simp only [List.foldl_cons]
    exact ih (setByte_inv _ h (ho i (hl' i (by simp)))) (fun j hj => hl' j (by simp [hj]))

/-- A write whose result is canonical and within RDRAM_SIZE keeps host memory so (R205, R209). -/
theorem writeIf_inv {P : Params} {m m' r : HostMem} {a : Int} {n : Nat} (hm : hostInv P m = true)
    (h' : outOfRange P a n = none → hostInv P m' = true) (h : writeIf P m a n m' = .ok r) : hostInv P r = true := by
  rcases writeIf_ok h with ⟨ho, rfl⟩ | rfl
  · exact h' ho
  · exact hm

theorem memWrite_inv {P : Params} {m m' : HostMem} {a : Int} {n v : Nat} (h : hostInv P m = true)
    (hw : memWrite P m a n v = .ok m') : hostInv P m' = true := writeIf_inv h (writeBytes_inv v h) hw

/-- A hidden-field write keeps the host memory canonical and within RDRAM_SIZE (R207). -/
theorem hidWrite_inv {P : Params} {m : HostMem} (i : Int) (v : Nat) (h : hostInv P m = true) :
    hostInv P (hidWrite P m i v) = true := by
  unfold hidWrite
  split
  · rename_i hlt
    rw [hostInv_iff] at h ⊢
    exact ⟨⟨h.1.1, sparsePut_wf _ _ h.1.2⟩, h.2.1, sparsePut_below h.2.2 (by unfold hidKey; omega)⟩
  · exact h

theorem writePair8_inv {P : Params} {m m' : HostMem} {a : Int} {v : Nat} (hm : hostInv P m = true)
    (h : writePair8 P m a v = .ok m') : hostInv P m' = true := by
  refine writeIf_inv hm (fun ho => ?_) h
  split
  · exact hidWrite_inv _ _ (writeBytes_inv _ hm ho)
  · exact writeBytes_inv _ hm ho

theorem writePair16_inv {P : Params} {m m' : HostMem} {a : Int} {v h : Nat} (hm : hostInv P m = true)
    (hw : writePair16 P m a v h = .ok m') : hostInv P m' = true :=
  writeIf_inv hm (fun ho => hidWrite_inv _ _ (writeBytes_inv _ hm ho)) hw

theorem writePair32_inv {P : Params} {m m' : HostMem} {a : Int} {v h l : Nat} (hm : hostInv P m = true)
    (hw : writePair32 P m a v h l = .ok m') : hostInv P m' = true :=
  writeIf_inv hm (fun ho => hidWrite_inv _ _ (hidWrite_inv _ _ (writeBytes_inv _ hm ho))) hw

theorem memWrite_total {P : Params} {a : Int} {n : Nat} (h : accessOk P a n) (m : HostMem) (v : Nat) :
    ∃ m', memWrite P m a n v = .ok m' := writeIf_total h m _

theorem writePair8_total {P : Params} {a : Int} (h : accessOk P a 1) (m : HostMem) (v : Nat) :
    ∃ m', writePair8 P m a v = .ok m' := writeIf_total h m _

theorem writePair16_total {P : Params} {a : Int} (h : accessOk P a 2) (m : HostMem) (v hb : Nat) :
    ∃ m', writePair16 P m a v hb = .ok m' := writeIf_total h m _

theorem writePair32_total {P : Params} {a : Int} (h : accessOk P a 4) (m : HostMem) (v hh hl : Nat) :
    ∃ m', writePair32 P m a v hh hl = .ok m' := writeIf_total h m _

/-! ## A byte after a store -/

@[simp] theorem HostMem.setByte_init (m : HostMem) (a : Nat) (v : Byte) : (m.setByte a v).init = m.init := rfl

@[simp] theorem HostMem.setHidden_init (m : HostMem) (h : Nat) (v : BitVec 2) : (m.setHidden h v).init = m.init := rfl

@[simp] theorem HostMem.setHidden_byte (m : HostMem) (h : Nat) (v : BitVec 2) (a : Nat) :
    (m.setHidden h v).byte a = m.byte a := rfl

@[simp] theorem HostMem.setByte_hidden (m : HostMem) (a : Nat) (v : Byte) (h : Nat) :
    (m.setByte a v).hidden h = m.hidden h := rfl

theorem Memory.knownUnlisted_byte (init : MemInit) (a : Nat) (x : Byte) (h : Memory.knownUnlisted 8 init = some x) :
    x = Memory.unlisted init a := by
  cases init
  · cases h
  · exact (Option.some.inj h).symm

theorem Memory.knownUnlisted_hidden (init : MemInit) (k : Nat) (x : BitVec 2)
    (h : Memory.knownUnlisted 2 init = some x) : x = Memory.unlistedHidden init k := by
  cases init
  · cases h
  · exact (Option.some.inj h).symm

theorem HostMem.byte_setByte {m : HostMem} (h : Memory.wf m = true) (a : Nat) (v : Byte) (x : Nat) :
    (m.setByte a v).byte x = if x = a then v else m.byte x := by
  simp only [Memory.wf, Bool.and_eq_true] at h
  exact sparseGet_put (Memory.knownUnlisted_byte m.init x) h.1 a v x

theorem HostMem.hidden_setHidden {m : HostMem} (h : Memory.wf m = true) (k : Nat) (v : BitVec 2) (x : Nat) :
    (m.setHidden k v).hidden x = if x = k then v else m.hidden x := by
  simp only [Memory.wf, Bool.and_eq_true] at h
  exact sparseGet_put (Memory.knownUnlisted_hidden m.init x) h.2 k v x

theorem HostMem.setByte_wf {m : HostMem} (h : Memory.wf m = true) (a : Nat) (v : Byte) :
    Memory.wf (m.setByte a v) = true := by
  simp only [Memory.wf, Bool.and_eq_true] at h ⊢
  exact ⟨sparsePut_wf a v h.1, h.2⟩

@[simp] theorem hidWrite_byte (P : Params) (m : HostMem) (i : Int) (v a : Nat) : (hidWrite P m i v).byte a = m.byte a := by
  unfold hidWrite
  split <;> rfl

theorem writeBytes_hidden (P : Params) (m : HostMem) (a : Int) (n v h : Nat) :
    (writeBytes P m a n v).hidden h = m.hidden h := by
  unfold writeBytes
  generalize List.range n = l
  induction l generalizing m with
  | nil => rfl
  | cons i l ih => simp only [List.foldl_cons, ih, HostMem.setByte_hidden]

/-- A byte outside the stored ones reads as before (R205). -/
theorem writeBytes_byte_ne {P : Params} {m : HostMem} (hm : Memory.wf m = true) (a : Int) (n v x : Nat)
    (hx : ∀ i < n, x ≠ maskAddr P (a + i)) : (writeBytes P m a n v).byte x = m.byte x := by
  unfold writeBytes
  generalize hl : List.range n = l
  have hl' : ∀ i ∈ l, i < n := fun i hi => by rw [← hl] at hi; exact List.mem_range.1 hi
  clear hl
  induction l generalizing m with
  | nil => rfl
  | cons i l ih =>
    simp only [List.foldl_cons]
    rw [ih (HostMem.setByte_wf hm _ _) (fun j hj => hl' j (by simp [hj])), HostMem.byte_setByte hm,
      if_neg (hx i (hl' i (by simp)))]

/-! ## TMEM -/

theorem tmemInv_iff {m : List Host.Cell} : tmemInv m = true ↔ sparseWf (some byteZero) m = true ∧ sparseBelow 4096 m = true := by
  simp [tmemInv]

theorem and_mask_lt {n m k : Nat} (h : m < k) : n &&& m < k := lt_of_le_of_lt Nat.and_le_right h

theorem tmemWrite8_inv {m : List Host.Cell} (a : Nat) (v : Byte) (h : tmemInv m = true) :
    tmemInv (tmemWrite8 m a v) = true := by
  rw [tmemInv_iff] at h ⊢
  exact ⟨sparsePut_wf _ _ h.1, sparsePut_below h.2 (and_mask_lt (by decide))⟩

theorem tmemWrite16_inv {m : List Host.Cell} (a v : Nat) (h : tmemInv m = true) : tmemInv (tmemWrite16 m a v) = true := by
  rw [tmemInv_iff] at h ⊢
  exact ⟨sparsePut_wf _ _ (sparsePut_wf _ _ h.1),
    sparsePut_below (sparsePut_below h.2 (and_mask_lt (by decide))) (and_mask_lt (by decide))⟩

/-! ## Coverage buffer -/

theorem cvgInv_iff {m : List Host.Cell} : cvgInv m = true ↔ sparseWf (some byteZero) m = true ∧ sparseBelow 1024 m = true := by
  simp [cvgInv]

theorem cvgPut_inv {m : List Host.Cell} (x : Int) (v : Nat) (h : cvgInv m = true) : cvgInv (cvgPut m x v) = true := by
  rw [cvgInv_iff] at h ⊢
  exact ⟨sparsePut_wf _ _ h.1, sparsePut_below h.2 (iand_lt _ (by decide))⟩

theorem cvgOr_inv {m : List Host.Cell} (x : Int) (v : Nat) (h : cvgInv m = true) : cvgInv (cvgOr m x v) = true :=
  cvgPut_inv x _ h

/-! ## Span buffer -/

theorem spanInv_iff {P : Params} {m : List (Nat × Span)} :
    spanInv P m = true ↔ sparseWf (some Span.zero) m = true ∧ sparseBelow P.maxScanlines m = true := by
  simp [spanInv]

theorem spanUpdate_inv {P : Params} {m : List (Nat × Span)} (i : Int) (f : Span → Span) (h : spanInv P m = true) :
    spanInv P (spanUpdate P m i f) = true := by
  unfold spanUpdate
  split
  · rename_i hi
    rw [spanInv_iff] at h ⊢
    exact ⟨sparsePut_wf _ _ h.1, sparsePut_below h.2 (by omega)⟩
  · exact h

end Sys2Proof.Machine
end

