-- ==== Sys2Proof/Laws/State.lean ====
section
/-! SUPPORT. One lemma per field of the state per update, true by unfolding, so that no later proof unfolds a record update; and
the same for the small updates of Regs and Pixel. -/

namespace Sys2Proof.Machine

open Sys2Proof.Config

@[simp] theorem State.setRegs_params (s : State) (r : Regs) : (s.setRegs r).params = s.params := rfl
@[simp] theorem State.setRegs_regs (s : State) (r : Regs) : (s.setRegs r).regs = r := rfl
@[simp] theorem State.setRegs_tmem (s : State) (r : Regs) : (s.setRegs r).tmem = s.tmem := rfl
@[simp] theorem State.setRegs_walk (s : State) (r : Regs) : (s.setRegs r).walk = s.walk := rfl
@[simp] theorem State.setRegs_pixel (s : State) (r : Regs) : (s.setRegs r).pixel = s.pixel := rfl
@[simp] theorem State.setRegs_cmds (s : State) (r : Regs) : (s.setRegs r).cmds = s.cmds := rfl
@[simp] theorem State.setRegs_cmdIndex (s : State) (r : Regs) : (s.setRegs r).cmdIndex = s.cmdIndex := rfl

@[simp] theorem State.setTmem_params (s : State) (m : List Host.Cell) : (s.setTmem m).params = s.params := rfl
@[simp] theorem State.setTmem_regs (s : State) (m : List Host.Cell) : (s.setTmem m).regs = s.regs := rfl
@[simp] theorem State.setTmem_tmem (s : State) (m : List Host.Cell) : (s.setTmem m).tmem = m := rfl
@[simp] theorem State.setTmem_walk (s : State) (m : List Host.Cell) : (s.setTmem m).walk = s.walk := rfl
@[simp] theorem State.setTmem_pixel (s : State) (m : List Host.Cell) : (s.setTmem m).pixel = s.pixel := rfl
@[simp] theorem State.setTmem_cmds (s : State) (m : List Host.Cell) : (s.setTmem m).cmds = s.cmds := rfl
@[simp] theorem State.setTmem_cmdIndex (s : State) (m : List Host.Cell) : (s.setTmem m).cmdIndex = s.cmdIndex := rfl

@[simp] theorem State.setWalk_params (s : State) (w : Walk) : (s.setWalk w).params = s.params := rfl
@[simp] theorem State.setWalk_regs (s : State) (w : Walk) : (s.setWalk w).regs = s.regs := rfl
@[simp] theorem State.setWalk_tmem (s : State) (w : Walk) : (s.setWalk w).tmem = s.tmem := rfl
@[simp] theorem State.setWalk_walk (s : State) (w : Walk) : (s.setWalk w).walk = w := rfl
@[simp] theorem State.setWalk_pixel (s : State) (w : Walk) : (s.setWalk w).pixel = s.pixel := rfl
@[simp] theorem State.setWalk_cmds (s : State) (w : Walk) : (s.setWalk w).cmds = s.cmds := rfl
@[simp] theorem State.setWalk_cmdIndex (s : State) (w : Walk) : (s.setWalk w).cmdIndex = s.cmdIndex := rfl

@[simp] theorem State.setPixel_params (s : State) (p : Pixel) : (s.setPixel p).params = s.params := rfl
@[simp] theorem State.setPixel_regs (s : State) (p : Pixel) : (s.setPixel p).regs = s.regs := rfl
@[simp] theorem State.setPixel_tmem (s : State) (p : Pixel) : (s.setPixel p).tmem = s.tmem := rfl
@[simp] theorem State.setPixel_walk (s : State) (p : Pixel) : (s.setPixel p).walk = s.walk := rfl
@[simp] theorem State.setPixel_pixel (s : State) (p : Pixel) : (s.setPixel p).pixel = p := rfl
@[simp] theorem State.setPixel_cmds (s : State) (p : Pixel) : (s.setPixel p).cmds = s.cmds := rfl
@[simp] theorem State.setPixel_cmdIndex (s : State) (p : Pixel) : (s.setPixel p).cmdIndex = s.cmdIndex := rfl

@[simp] theorem State.setCmdIndex_params (s : State) (n : Nat) : (s.setCmdIndex n).params = s.params := rfl
@[simp] theorem State.setCmdIndex_regs (s : State) (n : Nat) : (s.setCmdIndex n).regs = s.regs := rfl
@[simp] theorem State.setCmdIndex_tmem (s : State) (n : Nat) : (s.setCmdIndex n).tmem = s.tmem := rfl
@[simp] theorem State.setCmdIndex_walk (s : State) (n : Nat) : (s.setCmdIndex n).walk = s.walk := rfl
@[simp] theorem State.setCmdIndex_pixel (s : State) (n : Nat) : (s.setCmdIndex n).pixel = s.pixel := rfl
@[simp] theorem State.setCmdIndex_cmds (s : State) (n : Nat) : (s.setCmdIndex n).cmds = s.cmds := rfl
@[simp] theorem State.setCmdIndex_cmdIndex (s : State) (n : Nat) : (s.setCmdIndex n).cmdIndex = n := rfl

@[simp] theorem State.setCmds_params (s : State) (ws : List Word64) : (s.setCmds ws).params = s.params := rfl
@[simp] theorem State.setCmds_regs (s : State) (ws : List Word64) : (s.setCmds ws).regs = s.regs := rfl
@[simp] theorem State.setCmds_tmem (s : State) (ws : List Word64) : (s.setCmds ws).tmem = s.tmem := rfl
@[simp] theorem State.setCmds_walk (s : State) (ws : List Word64) : (s.setCmds ws).walk = s.walk := rfl
@[simp] theorem State.setCmds_pixel (s : State) (ws : List Word64) : (s.setCmds ws).pixel = s.pixel := rfl
@[simp] theorem State.setCmds_cmds (s : State) (ws : List Word64) : (s.setCmds ws).cmds = ws := rfl
@[simp] theorem State.setCmds_cmdIndex (s : State) (ws : List Word64) : (s.setCmds ws).cmdIndex = s.cmdIndex := rfl

@[simp] theorem Pixel.emit_host (p : Pixel) (d : Diag) : (p.emit d).host = p.host := rfl
@[simp] theorem Pixel.emit_cvgbuf (p : Pixel) (d : Diag) : (p.emit d).cvgbuf = p.cvgbuf := rfl
@[simp] theorem Pixel.emit_spansDy (p : Pixel) (d : Diag) : (p.emit d).spansDy = p.spansDy := rfl
@[simp] theorem Pixel.emit_spansCd (p : Pixel) (d : Diag) : (p.emit d).spansCd = p.spansCd := rfl
@[simp] theorem Pixel.emit_memoryColor (p : Pixel) (d : Diag) : (p.emit d).memoryColor = p.memoryColor := rfl
@[simp] theorem Pixel.emit_preMemoryColor (p : Pixel) (d : Diag) : (p.emit d).preMemoryColor = p.preMemoryColor := rfl
@[simp] theorem Pixel.emit_pastRawdzmem (p : Pixel) (d : Diag) : (p.emit d).pastRawdzmem = p.pastRawdzmem := rfl
@[simp] theorem Pixel.emit_nextTexel (p : Pixel) (d : Diag) : (p.emit d).nextTexel = p.nextTexel := rfl
@[simp] theorem Pixel.emit_noiseSeed (p : Pixel) (d : Diag) : (p.emit d).noiseSeed = p.noiseSeed := rfl
@[simp] theorem Pixel.emit_lodFrac (p : Pixel) (d : Diag) : (p.emit d).lodFrac = p.lodFrac := rfl
@[simp] theorem Pixel.emit_lodFracBit8 (p : Pixel) (d : Diag) : (p.emit d).lodFracBit8 = p.lodFracBit8 := rfl
@[simp] theorem Pixel.emit_crashed (p : Pixel) (d : Diag) : (p.emit d).crashed = p.crashed := rfl
@[simp] theorem Pixel.emit_warned (p : Pixel) (d : Diag) : (p.emit d).warned = p.warned := rfl
@[simp] theorem Pixel.emit_draws (p : Pixel) (d : Diag) : (p.emit d).draws = p.draws := rfl
@[simp] theorem Pixel.emit_diag (p : Pixel) (d : Diag) : (p.emit d).diag = p.diag ++ [d] := rfl

@[simp] theorem clearCrash_host (P : Params) (p : Pixel) : (clearCrash P p).host = p.host := rfl
@[simp] theorem clearCrash_cvgbuf (P : Params) (p : Pixel) : (clearCrash P p).cvgbuf = p.cvgbuf := rfl
@[simp] theorem clearCrash_spansDy (P : Params) (p : Pixel) : (clearCrash P p).spansDy = p.spansDy := rfl
@[simp] theorem clearCrash_spansCd (P : Params) (p : Pixel) : (clearCrash P p).spansCd = p.spansCd := rfl
@[simp] theorem clearCrash_memoryColor (P : Params) (p : Pixel) : (clearCrash P p).memoryColor = p.memoryColor := rfl
@[simp] theorem clearCrash_preMemoryColor (P : Params) (p : Pixel) : (clearCrash P p).preMemoryColor = p.preMemoryColor := rfl
@[simp] theorem clearCrash_pastRawdzmem (P : Params) (p : Pixel) : (clearCrash P p).pastRawdzmem = p.pastRawdzmem := rfl
@[simp] theorem clearCrash_nextTexel (P : Params) (p : Pixel) : (clearCrash P p).nextTexel = p.nextTexel := rfl
@[simp] theorem clearCrash_noiseSeed (P : Params) (p : Pixel) : (clearCrash P p).noiseSeed = p.noiseSeed := rfl
@[simp] theorem clearCrash_lodFrac (P : Params) (p : Pixel) : (clearCrash P p).lodFrac = p.lodFrac := rfl
@[simp] theorem clearCrash_lodFracBit8 (P : Params) (p : Pixel) : (clearCrash P p).lodFracBit8 = p.lodFracBit8 := rfl
@[simp] theorem clearCrash_warned (P : Params) (p : Pixel) : (clearCrash P p).warned = p.warned := rfl
@[simp] theorem clearCrash_diag (P : Params) (p : Pixel) : (clearCrash P p).diag = p.diag := rfl
@[simp] theorem clearCrash_draws (P : Params) (p : Pixel) : (clearCrash P p).draws = p.draws := rfl
@[simp] theorem clearCrash_crashed (P : Params) (p : Pixel) :
    (clearCrash P p).crashed = if P.crashClearedBySetImage then false else p.crashed := rfl

/-! ## Tiles -/

@[simp] theorem Regs.getTile_setTile_same (r : Regs) (n : BitVec 3) (t : Tile) : (r.setTile n t).getTile n = t := by
  simp [Regs.getTile, Regs.setTile]

@[simp] theorem Regs.setTile_om (r : Regs) (n : BitVec 3) (t : Tile) : (r.setTile n t).om = r.om := rfl
@[simp] theorem Regs.setTile_cc (r : Regs) (n : BitVec 3) (t : Tile) : (r.setTile n t).cc = r.cc := rfl
@[simp] theorem Regs.setTile_fogColor (r : Regs) (n : BitVec 3) (t : Tile) : (r.setTile n t).fogColor = r.fogColor := rfl
@[simp] theorem Regs.setTile_blendColor (r : Regs) (n : BitVec 3) (t : Tile) : (r.setTile n t).blendColor = r.blendColor := rfl
@[simp] theorem Regs.setTile_primColor (r : Regs) (n : BitVec 3) (t : Tile) : (r.setTile n t).primColor = r.primColor := rfl
@[simp] theorem Regs.setTile_envColor (r : Regs) (n : BitVec 3) (t : Tile) : (r.setTile n t).envColor = r.envColor := rfl
@[simp] theorem Regs.setTile_fillColor (r : Regs) (n : BitVec 3) (t : Tile) : (r.setTile n t).fillColor = r.fillColor := rfl
@[simp] theorem Regs.setTile_primLodMin (r : Regs) (n : BitVec 3) (t : Tile) : (r.setTile n t).primLodMin = r.primLodMin := rfl
@[simp] theorem Regs.setTile_primLodFrac (r : Regs) (n : BitVec 3) (t : Tile) : (r.setTile n t).primLodFrac = r.primLodFrac := rfl
@[simp] theorem Regs.setTile_keyWidth (r : Regs) (n : BitVec 3) (t : Tile) : (r.setTile n t).keyWidth = r.keyWidth := rfl
@[simp] theorem Regs.setTile_keyCenter (r : Regs) (n : BitVec 3) (t : Tile) : (r.setTile n t).keyCenter = r.keyCenter := rfl
@[simp] theorem Regs.setTile_keyScale (r : Regs) (n : BitVec 3) (t : Tile) : (r.setTile n t).keyScale = r.keyScale := rfl
@[simp] theorem Regs.setTile_k0 (r : Regs) (n : BitVec 3) (t : Tile) : (r.setTile n t).k0 = r.k0 := rfl
@[simp] theorem Regs.setTile_k1 (r : Regs) (n : BitVec 3) (t : Tile) : (r.setTile n t).k1 = r.k1 := rfl
@[simp] theorem Regs.setTile_k2 (r : Regs) (n : BitVec 3) (t : Tile) : (r.setTile n t).k2 = r.k2 := rfl
@[simp] theorem Regs.setTile_k3 (r : Regs) (n : BitVec 3) (t : Tile) : (r.setTile n t).k3 = r.k3 := rfl
@[simp] theorem Regs.setTile_k4 (r : Regs) (n : BitVec 3) (t : Tile) : (r.setTile n t).k4 = r.k4 := rfl
@[simp] theorem Regs.setTile_k5 (r : Regs) (n : BitVec 3) (t : Tile) : (r.setTile n t).k5 = r.k5 := rfl
@[simp] theorem Regs.setTile_primZ (r : Regs) (n : BitVec 3) (t : Tile) : (r.setTile n t).primZ = r.primZ := rfl
@[simp] theorem Regs.setTile_primDz (r : Regs) (n : BitVec 3) (t : Tile) : (r.setTile n t).primDz = r.primDz := rfl
@[simp] theorem Regs.setTile_clip (r : Regs) (n : BitVec 3) (t : Tile) : (r.setTile n t).clip = r.clip := rfl
@[simp] theorem Regs.setTile_scField (r : Regs) (n : BitVec 3) (t : Tile) : (r.setTile n t).scField = r.scField := rfl
@[simp] theorem Regs.setTile_scKeepOdd (r : Regs) (n : BitVec 3) (t : Tile) : (r.setTile n t).scKeepOdd = r.scKeepOdd := rfl
@[simp] theorem Regs.setTile_fbFormat (r : Regs) (n : BitVec 3) (t : Tile) : (r.setTile n t).fbFormat = r.fbFormat := rfl
@[simp] theorem Regs.setTile_fbSize (r : Regs) (n : BitVec 3) (t : Tile) : (r.setTile n t).fbSize = r.fbSize := rfl
@[simp] theorem Regs.setTile_fbWidth (r : Regs) (n : BitVec 3) (t : Tile) : (r.setTile n t).fbWidth = r.fbWidth := rfl
@[simp] theorem Regs.setTile_fbAddress (r : Regs) (n : BitVec 3) (t : Tile) : (r.setTile n t).fbAddress = r.fbAddress := rfl
@[simp] theorem Regs.setTile_tiFormat (r : Regs) (n : BitVec 3) (t : Tile) : (r.setTile n t).tiFormat = r.tiFormat := rfl
@[simp] theorem Regs.setTile_tiSize (r : Regs) (n : BitVec 3) (t : Tile) : (r.setTile n t).tiSize = r.tiSize := rfl
@[simp] theorem Regs.setTile_tiWidth (r : Regs) (n : BitVec 3) (t : Tile) : (r.setTile n t).tiWidth = r.tiWidth := rfl
@[simp] theorem Regs.setTile_tiAddress (r : Regs) (n : BitVec 3) (t : Tile) : (r.setTile n t).tiAddress = r.tiAddress := rfl
@[simp] theorem Regs.setTile_zbAddress (r : Regs) (n : BitVec 3) (t : Tile) : (r.setTile n t).zbAddress = r.zbAddress := rfl

theorem Regs.getTile_setTile_ne (r : Regs) (n k : BitVec 3) (t : Tile) (h : k ≠ n) :
    (r.setTile n t).getTile k = r.getTile k := by
  have h' : n.toNat ≠ k.toNat := fun e => h (BitVec.eq_of_toNat_eq e.symm)
  simp [Regs.getTile, Regs.setTile, h']

/-! ## The crash latch -/

/-- All that `crashLatch` does (R1105): the latch is set, the name is in the warned set, one warning the first time. -/
theorem crashLatch_spec (c : CrashName) (p : Pixel) :
    crashLatch c p =
      { p with crashed := true, warned := (crashLatch c p).warned,
               diag := if p.warned.has c then p.diag else p.diag ++ [.crash c] } ∧
    (crashLatch c p).warned = (if p.warned.has c then p.warned else p.warned.add c) := by
  unfold crashLatch
  split <;> simp

@[simp] theorem crashLatch_crashed (c : CrashName) (p : Pixel) : (crashLatch c p).crashed = true := by
  unfold crashLatch
  split <;> rfl

@[simp] theorem crashLatch_host (c : CrashName) (p : Pixel) : (crashLatch c p).host = p.host := by
  unfold crashLatch
  split <;> rfl

@[simp] theorem crashLatch_cvgbuf (c : CrashName) (p : Pixel) : (crashLatch c p).cvgbuf = p.cvgbuf := by
  unfold crashLatch
  split <;> rfl

theorem Warned.has_add_same (w : Warned) (c : CrashName) : (w.add c).has c = true := by
  cases c <;> rfl

theorem crashLatch_warned_has (c : CrashName) (p : Pixel) : (crashLatch c p).warned.has c = true := by
  unfold crashLatch
  split
  · assumption
  · exact Warned.has_add_same _ _

end Sys2Proof.Machine
end

