-- ==== Sys2Proof/Laws/Load.lean ====
section
/-! SUPPORT. The texture loads: what a load that answers has done, when it answers, and that TMEM stays canonical. -/

namespace Sys2Proof.Machine

open Sys2Proof.Config

theorem loadTexel_inv {P : Params} {host : HostMem} {size : PixSize} {a : Nat} {src : Int} {m m' : List Host.Cell}
    (hm : tmemInv m = true) (h : loadTexel P host size a src m = .ok m') : tmemInv m' = true := by
  unfold loadTexel at h
  split at h
  · cases h
  all_goals
    split at h
    · cases h
      first
        | exact tmemWrite8_inv _ _ hm
        | exact tmemWrite16_inv _ _ hm
        | exact tmemWrite16_inv _ _ (tmemWrite16_inv _ _ hm)
    · cases h

theorem loadTexel_total {P : Params} {size : PixSize} (hs : size ≠ .b4) {src : Int} (h : accessOk P src (texelBytes size))
    (host : HostMem) (a : Nat) (m : List Host.Cell) : ∃ m', loadTexel P host size a src m = .ok m' := by
  cases size
  · exact absurd rfl hs
  all_goals
    obtain ⟨v, hv⟩ := memRead_total h host
    simp only [texelBytes] at hv
    simp only [loadTexel, hv]
    exact ⟨_, rfl⟩

/-- A texel of no 4-bit size faults only out of range (R209, R507). -/
theorem loadTexel_error {P : Params} {host : HostMem} {size : PixSize} (hs : size ≠ .b4) {a : Nat} {src : Int}
    {m : List Host.Cell} {e : Fault} (h : loadTexel P host size a src m = .error e) : ∃ x, e = .outOfRange x := by
  unfold loadTexel at h
  split at h
  · exact absurd rfl hs
  all_goals
    split at h
    · cases h
    · rename_i e' he
      cases h
      rcases memRead_cases P host src _ with ⟨_, h'⟩ | ⟨x, _, _, h'⟩ | ⟨x, _, _, h'⟩ <;> rw [he] at h' <;> cases h'
      exact ⟨_, rfl⟩

theorem writeLanes_inv {m : List Host.Cell} (h v : Nat) (hm : tmemInv m = true) : tmemInv (writeLanes m h v) = true :=
  forP_inv (Q := fun m => tmemInv m = true) (fun _ _ _ _ ht => tmemWrite16_inv _ _ ht) hm

theorem loadTileTexels_inv {c : Ctx} {host : HostMem} {t : Tile} {b : TileBounds} {m m' : List Host.Cell}
    (hm : tmemInv m = true) (h : loadTileTexels c host t b m = .ok m') : tmemInv m' = true :=
  forE_inv (Q := fun m => tmemInv m = true)
    (fun _ _ _ _ _ hq hr => forE_inv (Q := fun m => tmemInv m = true) (fun _ _ _ _ _ hq hr => loadTexel_inv hq hr) hq hr)
    hm h

theorem loadBlockTexels_inv {c : Ctx} {host : HostMem} {t : Tile} {sl tl sh dxt : BitVec 12} {m m' : List Host.Cell}
    (hm : tmemInv m = true) (h : loadBlockTexels c host t sl tl sh dxt m = .ok m') : tmemInv m' = true :=
  forE_inv (Q := fun m => tmemInv m = true) (fun _ _ _ _ _ hq hr => loadTexel_inv hq hr) hm h

theorem loadTlutEntries_inv {c : Ctx} {host : HostMem} {t : Tile} {b : TileBounds} {m m' : List Host.Cell}
    (hm : tmemInv m = true) (h : loadTlutEntries c host t b m = .ok m') : tmemInv m' = true := by
  refine forE_inv (Q := fun m => tmemInv m = true) (fun _ _ _ _ _ hq hr => ?_) hm h
  split at hr
  · cases hr
    exact writeLanes_inv _ _ hq
  · cases hr

theorem loadTileTexels_total {c : Ctx} (hs : c.regs.tiSize ≠ .b4) (host : HostMem) (t : Tile) (b : TileBounds)
    (h : ∀ row i, row < texelCount b.tl b.th → i < texelCount b.sl b.sh →
      accessOk c.params (texAddr c.regs (b.sl.toNat / 4 + i) (b.tl.toNat / 4 + row)) (texelBytes c.regs.tiSize))
    (m : List Host.Cell) : ∃ m', loadTileTexels c host t b m = .ok m' := by
  unfold loadTileTexels
  refine forE_answers (fun row u _ hr => forE_answers (fun i v _ hi => ?_) u) m
  exact loadTexel_total hs (h row i (by omega) (by omega)) host _ v

theorem loadBlockTexels_total {c : Ctx} (hs : c.regs.tiSize ≠ .b4) (host : HostMem) (t : Tile) (sl tl sh dxt : BitVec 12)
    (h : ∀ i, i < sh.toNat + 1 - sl.toNat →
      accessOk c.params (texAddr c.regs (sl.toNat + i) tl.toNat) (texelBytes c.regs.tiSize))
    (m : List Host.Cell) : ∃ m', loadBlockTexels c host t sl tl sh dxt m = .ok m' := by
  unfold loadBlockTexels
  exact forE_answers (fun i v _ hi => loadTexel_total hs (h i (by omega)) host _ v) m

theorem loadTlutEntries_total {c : Ctx} (host : HostMem) (t : Tile) (b : TileBounds)
    (h : ∀ i, i < texelCount b.sl b.sh →
      accessOk c.params (texAddr c.regs (b.sl.toNat / 4 + i) (b.tl.toNat / 4)) 2)
    (m : List Host.Cell) : ∃ m', loadTlutEntries c host t b m = .ok m' := by
  unfold loadTlutEntries
  refine forE_answers (fun i v _ hi => ?_) m
  obtain ⟨w, hw⟩ := memRead_total (h i (by omega)) host
  simp only [hw]
  exact ⟨_, rfl⟩

/-- All a load can do (R500 to R502, R507). -/
theorem runLoad_next {s s' : State} {n : BitVec 3} {b : TileBounds} {bad : Bool}
    {copy : Tile → List Host.Cell → Except Fault (List Host.Cell)} (h : runLoad s n b bad copy = .next s') :
    bad = false ∧ ∃ m, copy (s.regs.getTile n) s.tmem = .ok m ∧ s' = (s.setRegs (s.regs.setBounds n b)).setTmem m := by
  unfold runLoad at h
  split at h
  · cases h
  · rename_i hb
    split at h
    · rename_i m hm
      cases h
      exact ⟨by simpa using hb, m, hm, rfl⟩
    · cases h

/-- A load answers where its form is good and its copy does. -/
theorem runLoad_of_copy {s : State} {n : BitVec 3} {b : TileBounds}
    {copy : Tile → List Host.Cell → Except Fault (List Host.Cell)} {m : List Host.Cell}
    (h : copy (s.regs.getTile n) s.tmem = .ok m) :
    runLoad s n b false copy = .next ((s.setRegs (s.regs.setBounds n b)).setTmem m) := by
  unfold runLoad
  simp [h]

end Sys2Proof.Machine
end

