-- ==== Sys2Proof/Laws/Render.lean ====
section
/-! SUPPORT. The per-pixel stages and the renderers: what each can change of the pixel part, that host memory and the coverage
buffer stay canonical, and when each answers. -/

namespace Sys2Proof.Machine

open Sys2Proof.Config

/-- Warnings of unknown texels are appended to the sink, and free values are taken (R1108, R1202). -/
structure Grows (p p' : Pixel) : Prop where
  diag : ∃ l : List Diag, p'.diag = p.diag ++ l ∧ ∀ d ∈ l, d = .unknownTextureFormat
  draws : p.draws ≤ p'.draws

theorem Grows.same {p p' : Pixel} (h : p'.diag = p.diag) (h' : p.draws ≤ p'.draws) : Grows p p' :=
  ⟨⟨[], by simp [h], by simp⟩, h'⟩

theorem Grows.trans {p q r : Pixel} (h : Grows p q) (h' : Grows q r) : Grows p r := by
  obtain ⟨l, h1, h2⟩ := h.diag
  obtain ⟨l', h3, h4⟩ := h'.diag
  refine ⟨⟨l ++ l', by rw [h3, h1, List.append_assoc], fun d hd => ?_⟩, h.draws.trans h'.draws⟩
  rcases List.mem_append.1 hd with h | h
  · exact h2 d h
  · exact h4 d h

/-- What a stage that touches neither memory nor the latch leaves unchanged. -/
structure Quiet (p p' : Pixel) : Prop where
  host : p'.host = p.host
  cvgbuf : p'.cvgbuf = p.cvgbuf
  crashed : p'.crashed = p.crashed
  warned : p'.warned = p.warned
  grows : Grows p p'

/-- What every stage keeps: the canonical forms, the crash latch and the warned set. -/
structure Keeps (P : Params) (p p' : Pixel) : Prop where
  host : hostInv P p.host = true → hostInv P p'.host = true
  cvgbuf : cvgInv p.cvgbuf = true → cvgInv p'.cvgbuf = true
  crashed : p'.crashed = p.crashed
  warned : p'.warned = p.warned
  grows : Grows p p'

theorem Quiet.refl (p : Pixel) : Quiet p p := ⟨rfl, rfl, rfl, rfl, .same rfl le_rfl⟩

theorem Quiet.trans {p q r : Pixel} (h : Quiet p q) (h' : Quiet q r) : Quiet p r :=
  ⟨h'.host.trans h.host, h'.cvgbuf.trans h.cvgbuf, h'.crashed.trans h.crashed, h'.warned.trans h.warned,
    h.grows.trans h'.grows⟩

theorem Quiet.keeps {p p' : Pixel} (h : Quiet p p') (P : Params) : Keeps P p p' :=
  ⟨fun x => h.host ▸ x, fun x => h.cvgbuf ▸ x, h.crashed, h.warned, h.grows⟩

theorem Keeps.refl (P : Params) (p : Pixel) : Keeps P p p := (Quiet.refl p).keeps P

theorem Keeps.trans {P : Params} {p q r : Pixel} (h : Keeps P p q) (h' : Keeps P q r) : Keeps P p r :=
  ⟨fun x => h'.host (h.host x), fun x => h'.cvgbuf (h.cvgbuf x), h'.crashed.trans h.crashed, h'.warned.trans h.warned,
    h.grows.trans h'.grows⟩

/-! ## Texture stages -/

theorem drawTexel_quiet (p : Pixel) : Quiet p (drawTexel p).2 :=
  ⟨rfl, rfl, rfl, rfl, ⟨[.unknownTextureFormat], rfl, by simp⟩, Nat.le_succ _⟩

theorem unknownTexel_quiet {P : Params} {p p' : Pixel} {r : Option (Rgba Int)} {v : Rgba Int}
    (h : unknownTexel P p r = .ok (v, p')) : Quiet p p' := by
  unfold unknownTexel at h
  split at h
  · cases h; exact drawTexel_quiet p
  · cases h
  · split at h
    · cases h; exact ⟨rfl, rfl, rfl, rfl, ⟨[.unknownTextureFormat], rfl, by simp⟩, le_rfl⟩
    · cases h; exact drawTexel_quiet p

theorem fetchTexel_quiet {c : Ctx} {p p' : Pixel} {tl : Tile} {s t : Int} {lane : Nat} {v : Rgba Int}
    (h : fetchTexel c p tl s t lane = .ok (v, p')) : Quiet p p' := by
  unfold fetchTexel at h
  split at h
  · cases h; exact Quiet.refl p
  · split at h
    · cases h; exact Quiet.refl p
    · exact unknownTexel_quiet h
    · exact unknownTexel_quiet h

theorem fetchQuad_quiet {c : Ctx} {p p' : Pixel} {tl : Tile} {s0 s1 t0 t1 : Int}
    {v : Rgba Int × Rgba Int × Rgba Int × Rgba Int} (h : fetchQuad c p tl s0 s1 t0 t1 = .ok (v, p')) : Quiet p p' := by
  unfold fetchQuad at h
  split at h
  · cases h
  · rename_i h0
    split at h
    · cases h
    · rename_i h1
      split at h
      · cases h
      · rename_i h2
        split at h
        · cases h
        · rename_i h3
          cases h
          exact (((fetchTexel_quiet h0).trans (fetchTexel_quiet h1)).trans (fetchTexel_quiet h2)).trans (fetchTexel_quiet h3)

theorem tex_quiet {c : Ctx} {p p' : Pixel} {q : Nat × Nat} {n : BitVec 3} {cyc : Bool} {prev v : Rgba Int}
    (h : tex c p q n cyc prev = .ok (v, p')) : Quiet p p' := by
  unfold tex at h
  simp only at h
  split at h
  · split at h
    · cases h
    · rename_i hq
      cases h
      exact fetchQuad_quiet hq
  · split at h
    · cases h
    · rename_i hq
      cases h
      exact fetchTexel_quiet hq

theorem texIf_quiet {w : Bool} {c : Ctx} {p p' : Pixel} {q : TexPoint} {n : BitVec 3} {cyc : Bool} {prev v : Rgba Int}
    (h : texIf w c p q n cyc prev = .ok (v, p')) : Quiet p p' := by
  unfold texIf at h
  split at h
  · exact tex_quiet h
  · cases h; exact Quiet.refl p

theorem writeLodFrac_quiet (c : Ctx) (p : Pixel) (l : LinePos) (j : Int) (acc : TexPoint) :
    Quiet p (writeLodFrac c p l j acc) := by
  unfold writeLodFrac
  split
  · exact ⟨rfl, rfl, rfl, rfl, .same rfl le_rfl⟩
  · exact Quiet.refl p

theorem keepNext_quiet (c : Ctx) (v : Rgba Int) (p : Pixel) : Quiet p (keepNext c v p) := by
  unfold keepNext
  split
  · exact ⟨rfl, rfl, rfl, rfl, .same rfl le_rfl⟩
  · exact Quiet.refl p

theorem texels1_quiet {c : Ctx} {p p' : Pixel} {l : LinePos} {j : Int} {acc : TexPoint} {v : Rgba Int × Rgba Int}
    (h : texels1 c p l j acc = .ok (v, p')) : Quiet p p' := by
  unfold texels1 at h
  simp only at h
  split at h
  · cases h
  · rename_i h0
    split at h
    · cases h
    · rename_i h1
      cases h
      exact ((writeLodFrac_quiet c p l j acc).trans (texIf_quiet h0)).trans (texIf_quiet h1)

theorem texels2_quiet {c : Ctx} {p p' : Pixel} {l : LinePos} {j : Int} {acc : TexPoint} {v : Texels2}
    (h : texels2 c p l j acc = .ok (v, p')) : Quiet p p' := by
  unfold texels2 at h
  simp only at h
  split at h
  · cases h
  · rename_i h0
    split at h
    · cases h
    · rename_i h1
      split at h
      · cases h
      · rename_i h2
        cases h
        exact (((writeLodFrac_quiet c p l j acc).trans (texIf_quiet h0)).trans (texIf_quiet h1)).trans
          ((texIf_quiet h2).trans (keepNext_quiet c _ _))

/-! ## Noise, dither, blend -/

theorem setNoiseSeed_quiet (p : Pixel) (x : BitVec 32) : Quiet p { p with noiseSeed := x } := ⟨rfl, rfl, rfl, rfl, .same rfl le_rfl⟩

theorem rand_quiet (P : Params) (p : Pixel) : Quiet p (rand P p).2 := by
  unfold rand
  split
  · exact ⟨rfl, rfl, rfl, rfl, .same rfl (Nat.le_succ _)⟩
  · exact setNoiseSeed_quiet p _

theorem randIf_quiet (w : Bool) (P : Params) (p : Pixel) : Quiet p (randIf w P p).2 := by
  unfold randIf
  split
  · exact rand_quiet P p
  · exact Quiet.refl p

theorem ditherValues_quiet (c : Ctx) (p : Pixel) (x y : Int) : Quiet p (ditherValues c p x y).2 := randIf_quiet _ _ _

theorem alphaCompare_quiet (c : Ctx) (p : Pixel) (x : Nat) : Quiet p (alphaCompare c p x).2 := by
  unfold alphaCompare
  split
  · exact randIf_quiet _ _ _
  · exact Quiet.refl p

theorem blend1_quiet (c : Ctx) (p : Pixel) (q : CombinedPixel) (sa d : Nat) (k : BlendCtl) :
    Quiet p (blend1 c p q sa d k).2 := by
  unfold blend1
  simp only
  split <;> exact alphaCompare_quiet _ _ _

theorem takePreMemory_quiet (p : Pixel) : Quiet p (takePreMemory p) := ⟨rfl, rfl, rfl, rfl, .same rfl le_rfl⟩

theorem blend2_quiet (c : Ctx) (p : Pixel) (q : CombinedPixel) (sa d : Nat) (k : BlendCtl) :
    Quiet p (blend2 c p q sa d k).2 := by
  unfold blend2
  simp only
  split <;> exact (alphaCompare_quiet _ _ _).trans (takePreMemory_quiet _)

theorem zCompare_quiet {c : Ctx} {p p' : Pixel} {n : Int} {sz dz de cv mc : Nat} {z : ZResult}
    (h : zCompare c p n sz dz de cv mc = .ok (z, p')) : Quiet p p' := by
  unfold zCompare at h
  split at h
  · split at h
    · cases h; exact ⟨rfl, rfl, rfl, rfl, .same rfl le_rfl⟩
    · cases h
  · cases h; exact Quiet.refl p

/-! ## Memory stages -/

theorem fbStore_inv {c : Ctx} {m m' : HostMem} {n : Int} {v : Rgb Nat} {fc : Nat} (hm : hostInv c.params m = true)
    (h : fbStore c m n v fc = .ok m') : hostInv c.params m' = true := by
  unfold fbStore at h
  simp only at h
  split at h
  · split at h
    · exact memWrite_inv hm h
    · cases h
  · exact writePair8_inv hm h
  · exact writePair16_inv hm h
  · exact writePair32_inv hm h

theorem zStore_inv {c : Ctx} {m m' : HostMem} {n : Int} {z d : Nat} (hm : hostInv c.params m = true)
    (h : zStore c m n z d = .ok m') : hostInv c.params m' = true := writePair16_inv hm h

theorem writePixel_keeps {c : Ctx} {p p' : Pixel} {f : Fragment} {z : ZResult} {mc : Nat} {v : Option (Rgb Nat)}
    (h : writePixel c p f z mc v = .ok p') : Keeps c.params p p' := by
  unfold writePixel at h
  split at h
  · cases h; exact Keeps.refl _ p
  · split at h
    · cases h
    · rename_i m hm
      split at h
      · split at h
        · cases h
        · rename_i m' hm'
          cases h
          exact ⟨fun x => zStore_inv (fbStore_inv x hm) hm', fun x => x, rfl, rfl, .same rfl le_rfl⟩
      · cases h
        exact ⟨fun x => fbStore_inv x hm, fun x => x, rfl, rfl, .same rfl le_rfl⟩

theorem finish1_keeps {c : Ctx} {p p' : Pixel} {f : Fragment} (h : finish1 c p f = .ok p') : Keeps c.params p p' := by
  unfold finish1 at h
  split at h
  · cases h
  · split at h
    · cases h
    · rename_i fb _ _ z q hz
      have hq : Quiet p q := Quiet.trans (q := { p with memoryColor := fb.color }) ⟨rfl, rfl, rfl, rfl, .same rfl le_rfl⟩ (zCompare_quiet hz)
      split at h
      · exact ((hq.trans (blend1_quiet _ _ _ _ _ _)).keeps _).trans (writePixel_keeps h)
      · cases h
        exact hq.keeps _

theorem finish2_keeps {c : Ctx} {p p' : Pixel} {f : Fragment} (h : finish2 c p f = .ok p') : Keeps c.params p p' := by
  unfold finish2 at h
  split at h
  · cases h
  · split at h
    · cases h
    · rename_i fb _ _ z q hz
      have hq : Quiet p q := Quiet.trans (q := { p with preMemoryColor := fb.color }) ⟨rfl, rfl, rfl, rfl, .same rfl le_rfl⟩ (zCompare_quiet hz)
      split at h
      · exact ((hq.trans (blend2_quiet _ _ _ _ _ _)).keeps _).trans (writePixel_keeps h)
      · cases h
        exact (hq.trans (takePreMemory_quiet _)).keeps _

theorem pixel1_keeps {c : Ctx} {l : Line} {j : Nat} {p p' : Pixel} (h : pixel1 c l j p = .ok p') : Keeps c.params p p' := by
  unfold pixel1 at h
  simp only at h
  split at h
  · cases h
  · rename_i ht
    exact ((((texels1_quiet ht).trans (ditherValues_quiet _ _ _ _)).trans (randIf_quiet _ _ _)).keeps _).trans
      (finish1_keeps h)

theorem pixel2_keeps {c : Ctx} {l : Line} {j : Nat} {p p' : Pixel} (h : pixel2 c l j p = .ok p') : Keeps c.params p p' := by
  unfold pixel2 at h
  simp only at h
  split at h
  · cases h
  · rename_i ht
    exact ((((texels2_quiet ht).trans (ditherValues_quiet _ _ _ _)).trans (randIf_quiet _ _ _)).keeps _).trans
      (finish2_keeps h)

/-! ## Coverage buffer -/

theorem covSubRow_inv (l r f m : Nat) {b : List Host.Cell} (h : cvgInv b = true) : cvgInv (covSubRow l r f m b) = true := by
  unfold covSubRow
  simp only
  refine forP_inv (Q := fun b => cvgInv b = true) (fun _ _ _ _ ht => cvgOr_inv _ _ ht) ?_
  split
  · exact cvgOr_inv _ _ h
  · exact cvgOr_inv _ _ (cvgOr_inv _ _ h)

theorem buildCvg_inv (flip : Bool) (sp : Span) {b : List Host.Cell} (h : cvgInv b = true) :
    cvgInv (buildCvg flip sp b) = true := by
  unfold buildCvg
  simp only
  split
  · exact h
  · refine forP_inv (Q := fun b => cvgInv b = true) (fun _ _ _ _ ht => ?_)
      (forP_inv (Q := fun b => cvgInv b = true) (fun _ _ _ _ ht => cvgPut_inv _ _ ht) h)
    split
    · exact ht
    · exact covSubRow_inv _ _ _ _ ht

theorem lineWrites_keeps (c : Ctx) (i : Int) (p : Pixel) : Keeps c.params p (lineWrites c i p) := by
  unfold lineWrites
  simp only
  split <;> exact ⟨fun x => x, fun x => buildCvg_inv _ _ x, rfl, rfl, .same rfl le_rfl⟩

/-! ## Scanlines -/

theorem forE_keeps {c : Ctx} {f : Nat → Pixel → Except Fault Pixel} (hf : ∀ j p p', f j p = .ok p' → Keeps c.params p p')
    {n i : Nat} {p p' : Pixel} (h : forE f i n p = .ok p') : Keeps c.params p p' :=
  forE_inv (Q := fun q => Keeps c.params p q) (fun j t t' _ _ hq hr => hq.trans (hf j t t' hr)) (Keeps.refl _ p) h

theorem line1_keeps {c : Ctx} {i : Int} {p p' : Pixel} (h : line1 c i p = .ok p') : Keeps c.params p p' :=
  (lineWrites_keeps c i p).trans (forE_keeps (fun _ _ _ => pixel1_keeps) h)

theorem line2_keeps {c : Ctx} {i : Int} {p p' : Pixel} (h : line2 c i p = .ok p') : Keeps c.params p p' :=
  (lineWrites_keeps c i p).trans (forE_keeps (fun _ _ _ => pixel2_keeps) h)

theorem draw_quiet (p : Pixel) : Quiet p p.draw.2 := ⟨rfl, rfl, rfl, rfl, .same rfl (Nat.le_succ _)⟩

theorem copyFetch_quiet {c : Ctx} {p p' : Pixel} {q : Nat × Nat} {n : BitVec 3} {v : Nat}
    (h : copyFetch c p q n = .ok (v, p')) : Quiet p p' := by
  unfold copyFetch at h
  simp only at h
  split at h
  · cases h; exact Quiet.refl p
  · cases h; exact Quiet.refl p
  all_goals
    split at h
    · split at h
      · cases h
      · cases h; exact draw_quiet p
    · first
        | (cases h; exact Quiet.refl p)
        | (split at h <;> cases h
           · exact draw_quiet p
           · exact Quiet.refl p)

theorem copyMask_quiet (c : Ctx) (p : Pixel) (q : Nat) : Quiet p (copyMask c p q).2 := by
  unfold copyMask
  split
  · split
    · exact Quiet.refl p
    · exact randIf_quiet _ _ _
    · exact Quiet.refl p
    · exact Quiet.refl p
  · exact Quiet.refl p

theorem copyBytes_inv {c : Ctx} {q m : Nat} {a : Int} {n : Nat} {h h' : HostMem} (hm : hostInv c.params h = true)
    (hc : copyBytes c q m a n h = .ok h') : hostInv c.params h' = true := by
  refine forE_inv (Q := fun h => hostInv c.params h = true) (fun _ _ _ _ _ hq hr => ?_) hm hc
  split at hr
  · exact writePair8_inv hq hr
  · cases hr; exact hq

theorem copyGroupStep_keeps {c : Ctx} {l : CopyLine} {g : Nat} {p p' : Pixel} (h : copyGroupStep c l g p = .ok p') :
    Keeps c.params p p' := by
  unfold copyGroupStep at h
  simp only at h
  split at h
  · cases h
  · rename_i v _ hf
    split at h
    · cases h
    · rename_i m hm
      cases h
      have hq := ((writeLodFrac_quiet c p l.pos _ _).trans (copyFetch_quiet hf)).trans (copyMask_quiet c _ v)
      exact ⟨fun x => copyBytes_inv (hq.host ▸ x) hm, fun x => hq.cvgbuf ▸ x, hq.crashed, hq.warned,
        hq.grows.trans (.same rfl le_rfl)⟩

theorem lineCopy_keeps {c : Ctx} {i : Int} {p p' : Pixel} (h : lineCopy c i p = .ok p') : Keeps c.params p p' :=
  forE_keeps (fun _ _ _ => copyGroupStep_keeps) h

theorem fillPixel_inv {c : Ctx} {n : Int} {m m' : HostMem} (hm : hostInv c.params m = true)
    (h : fillPixel c n m = .ok m') : hostInv c.params m' = true := by
  unfold fillPixel at h
  simp only at h
  split at h
  · cases h; exact hm
  · exact writePair8_inv hm h
  · exact writePair16_inv hm h
  · exact writePair32_inv hm h

/-- A fill scanline's pixels change host memory alone (R742). -/
theorem fillPixels_frame {c : Ctx} {i : Int} {n : Nat} {p p' : Pixel} (h : fillPixels c i n p = .ok p') :
    p' = { p with host := p'.host } ∧ (hostInv c.params p.host = true → hostInv c.params p'.host = true) := by
  refine forE_inv (Q := fun q => q = { p with host := q.host } ∧
    (hostInv c.params p.host = true → hostInv c.params q.host = true)) (fun j t t' _ _ hq hr => ?_) ⟨rfl, fun x => x⟩ h
  split at hr
  · rename_i m hm
    cases hr
    exact ⟨by rw [hq.1], fun x => fillPixel_inv (hq.2 x) hm⟩
  · cases hr

/-- All a fill scanline can do: change host memory, and set the crash latch (R740, R742). -/
theorem lineFill_cases {c : Ctx} {range : Int × Nat} {i : Int} {p p' : Pixel} (h : lineFill c range i p = .ok p') :
    ∃ m, (hostInv c.params p.host = true → hostInv c.params m = true) ∧
      (p' = { p with host := m } ∨ p' = crashLatch .fillModeReadDepthBits { p with host := m }) := by
  unfold lineFill at h
  split at h
  · have hf := fillPixels_frame h
    exact ⟨p'.host, hf.2, .inl hf.1⟩
  · split at h
    · rename_i q hq
      have hf := fillPixels_frame hq
      cases h
      exact ⟨q.host, hf.2, .inr (by rw [← hf.1])⟩
    · cases h

theorem setHost_keeps {P : Params} (p : Pixel) {m : HostMem} (h : hostInv P p.host = true → hostInv P m = true) :
    Keeps P p { p with host := m } := ⟨h, fun x => x, rfl, rfl, .same rfl le_rfl⟩

/-! ## Totality -/

theorem unknownTexel_total {P : Params} (h : P.unknownTexel ≠ .fault) (p : Pixel) (r : Option (Rgba Int)) :
    ∃ v, unknownTexel P p r = .ok v := by
  unfold unknownTexel
  split
  · exact ⟨_, rfl⟩
  · rename_i hf; exact absurd hf h
  · split <;> exact ⟨_, rfl⟩

theorem fetchTexel_total {c : Ctx} (h : c.params.unknownTexel ≠ .fault) (p : Pixel) (tl : Tile) (s t : Int) (lane : Nat) :
    ∃ v, fetchTexel c p tl s t lane = .ok v := by
  unfold fetchTexel
  split
  · exact ⟨_, rfl⟩
  · split
    · exact ⟨_, rfl⟩
    · exact unknownTexel_total h _ _
    · exact unknownTexel_total h _ _

theorem fetchQuad_total {c : Ctx} (h : c.params.unknownTexel ≠ .fault) (p : Pixel) (tl : Tile) (s0 s1 t0 t1 : Int) :
    ∃ v, fetchQuad c p tl s0 s1 t0 t1 = .ok v := by
  obtain ⟨⟨v0, p0⟩, h0⟩ := fetchTexel_total h p tl s0 t0 0
  obtain ⟨⟨v1, p1⟩, h1⟩ := fetchTexel_total h p0 tl s1 t0 1
  obtain ⟨⟨v2, p2⟩, h2⟩ := fetchTexel_total h p1 tl s0 t1 2
  obtain ⟨⟨v3, p3⟩, h3⟩ := fetchTexel_total h p2 tl s1 t1 3
  simp only [fetchQuad, h0, h1, h2, h3]
  exact ⟨_, rfl⟩

theorem tex_total {c : Ctx} (h : c.params.unknownTexel ≠ .fault) (p : Pixel) (q : Nat × Nat) (n : BitVec 3) (cyc : Bool)
    (prev : Rgba Int) : ∃ v, tex c p q n cyc prev = .ok v := by
  unfold tex
  simp only
  split
  · split
    · rename_i he
      obtain ⟨v, hv⟩ := fetchQuad_total h p _ _ _ _ _
      rw [hv] at he; cases he
    · exact ⟨_, rfl⟩
  · split
    · rename_i he
      obtain ⟨v, hv⟩ := fetchTexel_total h p _ _ _ _
      rw [hv] at he; cases he
    · exact ⟨_, rfl⟩

theorem texIf_total {c : Ctx} (h : c.params.unknownTexel ≠ .fault) (w : Bool) (p : Pixel) (q : TexPoint) (n : BitVec 3)
    (cyc : Bool) (prev : Rgba Int) : ∃ v, texIf w c p q n cyc prev = .ok v := by
  unfold texIf
  split
  · exact tex_total h _ _ _ _ _
  · exact ⟨_, rfl⟩

theorem texels1_total {c : Ctx} (h : c.params.unknownTexel ≠ .fault) (p : Pixel) (l : LinePos) (j : Int) (acc : TexPoint) :
    ∃ v, texels1 c p l j acc = .ok v := by
  obtain ⟨⟨v0, p0⟩, h0⟩ := texIf_total h (readsTexel0 c.regs.cc.c1) (writeLodFrac c p l j acc) acc
    (tilesOf c p l j acc).1 false noTexel
  obtain ⟨⟨v1, p1⟩, h1⟩ := texIf_total h (readsTexel1 c.regs.cc.c1) p0 (nextPixel c l j acc)
    (tilesOf c p0 l (j + 1) (nextPixel c l j acc)).1 false noTexel
  simp only [texels1, h0, h1]
  exact ⟨_, rfl⟩

theorem texels2_total {c : Ctx} (h : c.params.unknownTexel ≠ .fault) (p : Pixel) (l : LinePos) (j : Int) (acc : TexPoint) :
    ∃ v, texels2 c p l j acc = .ok v := by
  obtain ⟨⟨v0, p0⟩, h0⟩ := texIf_total h (needT0 c.regs) (writeLodFrac c p l j acc) acc
    (tilesOf c p l j acc).1 false noTexel
  obtain ⟨⟨v1, p1⟩, h1⟩ := texIf_total h (needT1 c.regs) p0 acc (tilesOf c p l j acc).2 true v0
  obtain ⟨⟨v2, p2⟩, h2⟩ := texIf_total h (needNext c.regs) p1 (texAdd acc l.inc)
    (tilesOf c p1 l (j + 1) (texAdd acc l.inc)).1 false noTexel
  simp only [texels2, h0, h1, h2]
  exact ⟨_, rfl⟩

/-- The accesses of a pixel complete (R710, R1009). -/
def accessesOk (c : Ctx) (n : Int) : Prop :=
  accessOk c.params (fbPixelAddr c.regs n) (pixelBytes c.regs.fbSize) ∧
    (c.regs.om.zCompareEn = true ∨ c.regs.om.zUpdateEn = true → accessOk c.params (zbAddr c.regs n) 2)

theorem fbRead_total {c : Ctx} {n : Int} (h : accessesOk c n) (m : HostMem) : ∃ v, fbRead c m n = .ok v := by
  obtain ⟨v, hv⟩ := memRead_total h.1 m
  unfold fbRead
  simp only
  split <;> rename_i hs <;> simp only [hs, pixelBytes] at hv
  · exact ⟨_, rfl⟩
  all_goals
    simp only [hv]
    exact ⟨_, rfl⟩

theorem zCompare_total {c : Ctx} {n : Int} (h : accessesOk c n) (p : Pixel) (sz dz de cv mc : Nat) :
    ∃ v, zCompare c p n sz dz de cv mc = .ok v := by
  unfold zCompare
  split
  · rename_i hc
    obtain ⟨v, hv⟩ := memRead_total (h.2 (.inl hc)) p.host
    simp only [zRead, hv]
    exact ⟨_, rfl⟩
  · exact ⟨_, rfl⟩

theorem fbStore_total {c : Ctx} {n : Int} (h : accessesOk c n) (h4 : c.regs.fbSize = .b4 → c.params.fb4Mode = .zeroByte)
    (m : HostMem) (v : Rgb Nat) (fc : Nat) : ∃ m', fbStore c m n v fc = .ok m' := by
  have h1 := h.1
  unfold fbStore
  simp only
  split <;> rename_i hs <;> simp only [hs, pixelBytes] at h1
  · rw [h4 hs]
    exact memWrite_total h1 _ _
  · exact writePair8_total h1 _ _
  · exact writePair16_total h1 _ _ _
  · exact writePair32_total h1 _ _ _ _

theorem writePixel_total {c : Ctx} {f : Fragment} (h : accessesOk c (fbIndex c.regs f.x f.y))
    (h4 : c.regs.fbSize = .b4 → c.params.fb4Mode = .zeroByte) (p : Pixel) (z : ZResult) (mc : Nat) (v : Option (Rgb Nat)) :
    ∃ p', writePixel c p f z mc v = .ok p' := by
  unfold writePixel
  split
  · exact ⟨_, rfl⟩
  · rename_i col
    obtain ⟨m1, h1⟩ := fbStore_total h h4 p.host col (finalizeCvg c.regs.om z.blendEn z.cvg mc)
    simp only [fbWrite, h1]
    split
    · rename_i hz
      obtain ⟨m2, h2⟩ := writePair16_total (h.2 (.inr hz)) m1 (zCompress (f.sz &&& 0x3ffff) ||| (dzCompress f.dzpix >>> 2))
        (dzCompress f.dzpix &&& 3)
      simp only [zStore, h2]
      exact ⟨_, rfl⟩
    · exact ⟨_, rfl⟩

theorem finish1_total {c : Ctx} {f : Fragment} (h : accessesOk c (fbIndex c.regs f.x f.y))
    (h4 : c.regs.fbSize = .b4 → c.params.fb4Mode = .zeroByte) (p : Pixel) : ∃ p', finish1 c p f = .ok p' := by
  unfold finish1
  obtain ⟨fb, hf⟩ := fbRead_total h p.host
  obtain ⟨⟨z, q⟩, hz⟩ := zCompare_total h { p with memoryColor := fb.color } f.sz f.dzpix (dzCompress f.dzpix) f.q.cvg fb.memcvg
  simp only [hf, hz]
  split
  · exact writePixel_total h h4 _ _ _ _
  · exact ⟨_, rfl⟩

theorem finish2_total {c : Ctx} {f : Fragment} (h : accessesOk c (fbIndex c.regs f.x f.y))
    (h4 : c.regs.fbSize = .b4 → c.params.fb4Mode = .zeroByte) (p : Pixel) : ∃ p', finish2 c p f = .ok p' := by
  unfold finish2
  obtain ⟨fb, hf⟩ := fbRead_total h p.host
  obtain ⟨⟨z, q⟩, hz⟩ := zCompare_total h { p with preMemoryColor := fb.color } f.sz f.dzpix (dzCompress f.dzpix) f.q.cvg fb.memcvg
  simp only [hf, hz]
  split
  · exact writePixel_total h h4 _ _ _ _
  · exact ⟨_, rfl⟩

/-- A pixel's column, as the renderer counts it (R701). -/
theorem lineSetup_column (c : Ctx) (i : Int) (j : Nat) :
    (lineSetup c i).rx + j * (lineSetup c i).xinc = pixelColumn c i j := by
  simp only [lineSetup, pixelColumn]
  split <;> omega

theorem pixel1_total {c : Ctx} {i : Int} {j : Nat} (hu : c.params.unknownTexel ≠ .fault)
    (h4 : c.regs.fbSize = .b4 → c.params.fb4Mode = .zeroByte) (h : colourOk c i j ∧ depthOk c i j) (p : Pixel) :
    ∃ p', pixel1 c (lineSetup c i) j p = .ok p' := by
  obtain ⟨⟨⟨t0, t1⟩, q⟩, ht⟩ := texels1_total hu p (lineSetup c i).pos j (texPart ((lineSetup c i).acc j))
  simp only [pixel1, ht]
  exact finish1_total (by simp only [lineSetup_column]; exact h) h4 _

theorem pixel2_total {c : Ctx} {i : Int} {j : Nat} (hu : c.params.unknownTexel ≠ .fault)
    (h4 : c.regs.fbSize = .b4 → c.params.fb4Mode = .zeroByte) (h : colourOk c i j ∧ depthOk c i j) (p : Pixel) :
    ∃ p', pixel2 c (lineSetup c i) j p = .ok p' := by
  obtain ⟨⟨t, q⟩, ht⟩ := texels2_total hu p (lineSetup c i).pos j (texPart ((lineSetup c i).acc j))
  simp only [pixel2, ht]
  exact finish2_total (by simp only [lineSetup_column]; exact h) h4 _

theorem lt_pixelCount {j : Nat} {length : Int} (h : j < 0 + pixelCount length) : (j : Int) ≤ length := by
  unfold pixelCount at h
  omega

theorem line1_total {c : Ctx} {i : Int} (h : pixelsOk c i) (p : Pixel) : ∃ p', line1 c i p = .ok p' :=
  forE_answers (fun _ t _ hj => pixel1_total h.1 h.2.1 (h.2.2 _ (lt_pixelCount hj)) t) _

theorem line2_total {c : Ctx} {i : Int} (h : pixelsOk c i) (p : Pixel) : ∃ p', line2 c i p = .ok p' :=
  forE_answers (fun _ t _ hj => pixel2_total h.1 h.2.1 (h.2.2 _ (lt_pixelCount hj)) t) _

theorem tilesOf_primTile {c : Ctx} (p : Pixel) (l : LinePos) (j : Int) (acc : TexPoint) :
    c.regs.om.texLodEn = true ∨ (tilesOf c p l j acc).1 = c.walk.primTile := by
  unfold tilesOf
  split
  · rename_i h; exact .inl h
  · exact .inr (by simp [tileOffset])

theorem copyFetch_total {c : Ctx} (h : copyOk c) {n : BitVec 3} (hn : c.regs.om.texLodEn = true ∨ n = c.walk.primTile)
    (p : Pixel) (q : Nat × Nat) : ∃ v, copyFetch c p q n = .ok v := by
  unfold copyFetch
  simp only
  split
  · exact ⟨_, rfl⟩
  · exact ⟨_, rfl⟩
  all_goals
    rename_i hs
    split
    · rename_i hm
      rcases h with h | h | h | h
      · rw [h]; exact ⟨_, rfl⟩
      · rw [h] at hs; cases hs
      · rw [h] at hs; cases hs
      · rw [h n hn] at hm; cases hm
    · first
        | exact ⟨_, rfl⟩
        | (split <;> exact ⟨_, rfl⟩)

theorem copyBytes_total {c : Ctx} {a : Int} {n : Nat}
    (h : ∀ k : Nat, k < n → accessOk c.params (if c.walk.flip then a + k else a - k) 1) (q m : Nat) (host : HostMem) :
    ∃ m', copyBytes c q m a n host = .ok m' := by
  unfold copyBytes
  refine forE_answers (fun k t _ hk => ?_) host
  split
  · exact writePair8_total (h k (by omega)) t _
  · exact ⟨_, rfl⟩

theorem copyGroupStep_total {c : Ctx} {i : Int} (hc : copyOk c)
    (h : ∀ k : Nat,
      (k : Int) < lineLength c.walk.flip (spanAt c.params c.walk i) * copyBpp c.regs.fbSize + copyBpp c.regs.fbSize →
        accessOk c.params ((copySetup c i).fbptr + (if c.walk.flip then (k : Int) else -k)) 1) (g : Nat) (p : Pixel) :
    ∃ p', copyGroupStep c (copySetup c i) g p = .ok p' := by
  have hlen : (if c.walk.flip then (copySetup c i).fbend - (copySetup c i).fbptr
      else (copySetup c i).fbptr - (copySetup c i).fbend) =
      lineLength c.walk.flip (spanAt c.params c.walk i) * copyBpp c.regs.fbSize := by
    simp only [copySetup, lineLength, fbIndex]
    split <;> ring
  generalize lineLength c.walk.flip (spanAt c.params c.walk i) * (copyBpp c.regs.fbSize : Int) = len at h hlen
  unfold copyGroupStep
  simp only
  obtain ⟨⟨q, p1⟩, h1⟩ := copyFetch_total hc
    (tilesOf_primTile p (copySetup c i).pos (g * copyStep c.regs.fbSize) (copyAcc (copySetup c i) g))
    (writeLodFrac c p (copySetup c i).pos (g * copyStep c.regs.fbSize) (copyAcc (copySetup c i) g))
    (persp c (copyAcc (copySetup c i) g))
  simp only [h1]
  split
  · rename_i he
    obtain ⟨u, hu⟩ := copyBytes_total (c := c)
      (a := if c.walk.flip then (copySetup c i).fbptr + 8 * g else (copySetup c i).fbptr - 8 * g)
      (n := (min 8 ((if c.walk.flip then (copySetup c i).fbend -
          (if c.walk.flip then (copySetup c i).fbptr + 8 * g else (copySetup c i).fbptr - 8 * g)
        else (if c.walk.flip then (copySetup c i).fbptr + 8 * g else (copySetup c i).fbptr - 8 * g) -
          (copySetup c i).fbend) + copyBpp c.regs.fbSize)).toNat)
      (fun k hk => by
        have h2 := h (8 * g + k)
        split at hlen <;> rename_i hf <;> simp only [hf, if_true, if_false, Bool.false_eq_true] at hk h2 ⊢
        · have h3 := h2 (by push_cast; omega)
          rw [show (copySetup c i).fbptr + 8 * g + k = (copySetup c i).fbptr + ((8 * g + k : Nat) : Int) by push_cast; ring]
          exact h3
        · have h3 := h2 (by push_cast; omega)
          rw [show (copySetup c i).fbptr - 8 * g - k = (copySetup c i).fbptr + -((8 * g + k : Nat) : Int) by push_cast; ring]
          exact h3)
      q (copyMask c p1 q).1 (copyMask c p1 q).2.host
    rw [hu] at he; cases he
  · exact ⟨_, rfl⟩

theorem fillPixel_total {c : Ctx} {n : Int} (h : accessOk c.params (fbPixelAddr c.regs n) (pixelBytes c.regs.fbSize))
    (m : HostMem) : ∃ m', fillPixel c n m = .ok m' := by
  unfold fillPixel
  simp only
  split <;> rename_i hs <;> simp only [hs, pixelBytes] at h
  · exact ⟨_, rfl⟩
  · exact writePair8_total h _ _
  · exact writePair16_total h _ _ _
  · exact writePair32_total h _ _ _ _

theorem fillPixels_total {c : Ctx} {i : Int} {n : Nat}
    (h : ∀ j : Nat, (j : Int) ≤ lineLength c.walk.flip (spanAt c.params c.walk i) → colourOk c i j)
    (hn : n ≤ pixelCount (fillLength c i)) (p : Pixel) : ∃ p', fillPixels c i n p = .ok p' := by
  unfold fillPixels
  refine forE_answers (fun j p _ hj => ?_) _
  split
  · exact ⟨_, rfl⟩
  · rename_i he
    obtain ⟨u, hu⟩ := fillPixel_total (h j (lt_pixelCount (by unfold fillLength at hn; omega))) p.host
    simp only [pixelColumn] at hu
    rw [hu] at he; cases he

theorem lineFill_total {c : Ctx} {range : Int × Nat} {i : Int}
    (h : ∀ j : Nat, (j : Int) ≤ lineLength c.walk.flip (spanAt c.params c.walk i) → colourOk c i j) (p : Pixel) :
    ∃ p', lineFill c range i p = .ok p' := by
  unfold lineFill
  split
  · exact fillPixels_total h le_rfl p
  · obtain ⟨q, hq⟩ := fillPixels_total h (min_le_right _ _) p
    rw [hq]
    exact ⟨_, rfl⟩

end Sys2Proof.Machine
end

