-- ==== Sys2Proof/Laws/Primitives.lean ====
section
/-! SUPPORT. The rendering commands: what a primitive can change, that it keeps the canonical forms, when it answers, and that
the crash latch alone stops it. -/

namespace Sys2Proof.Machine

open Sys2Proof.Config

/-! ## The edge walk -/

@[simp] theorem edgeWalk_params (c : Ctx) (P : EdgeParams) : (edgeWalk c P).params = c.params := rfl
@[simp] theorem edgeWalk_regs (c : Ctx) (P : EdgeParams) : (edgeWalk c P).regs = c.regs := rfl
@[simp] theorem edgeWalk_tmem (c : Ctx) (P : EdgeParams) : (edgeWalk c P).tmem = c.tmem := rfl

@[simp] theorem edgeGradients_host (P : EdgeParams) (p : Pixel) : (edgeGradients P p).host = p.host := rfl
@[simp] theorem edgeGradients_cvgbuf (P : EdgeParams) (p : Pixel) : (edgeGradients P p).cvgbuf = p.cvgbuf := rfl
@[simp] theorem edgeGradients_crashed (P : EdgeParams) (p : Pixel) : (edgeGradients P p).crashed = p.crashed := rfl
@[simp] theorem edgeGradients_warned (P : EdgeParams) (p : Pixel) : (edgeGradients P p).warned = p.warned := rfl

theorem walkRow_span_inv {c : Ctx} (e : WalkEnv) (k : Int) {a : WalkAcc} (h : spanInv c.params a.span = true) :
    spanInv c.params (walkRow c e k a).span = true := by
  have h1 : (resetLine e.P.flip (iand k 3) (switchMinor e.P k a)).span = a.span := by
    unfold resetLine switchMinor
    split <;> split <;> rfl
  unfold walkRow
  simp only [advanceRow]
  split
  · have h2 : spanInv c.params (resetLine e.P.flip (iand k 3) (switchMinor e.P k a)).span = true := h1.symm ▸ h
    simp only [rangeRow, accumLine]
    exact spanUpdate_inv _ _ h2
  · exact h1.symm ▸ h

theorem walkSpans_inv {c : Ctx} (P : EdgeParams) (h : spanInv c.params c.walk.span = true) :
    spanInv c.params (walkSpans c P) = true := by
  unfold walkSpans
  simp only
  refine forP_inv (Q := fun a : WalkAcc => spanInv c.params a.span = true) (fun _ _ _ _ ht => walkRow_span_inv _ _ ht) ?_
  simp only [markEnd]
  split
  · exact spanUpdate_inv _ _ h
  · exact h

theorem edgeWalk_span_inv {c : Ctx} (P : EdgeParams) (h : spanInv c.params c.walk.span = true) :
    spanInv c.params (edgeWalk c P).walk.span = true := walkSpans_inv P h

/-! ## Rendering -/

theorem hasScanline_iff {c : Ctx} {range : Int × Nat} :
    hasScanline c range = true ↔ ∃ k < range.2, (spanAt c.params c.walk (range.1 + k)).validline = true := by
  simp [hasScanline, validLines, List.filter_eq_nil_iff]

/-- What the renderers leave of the pixel part: the kept parts, under a crash latch that fill and copy alone can set (R1102). -/
def Rendered (c : Ctx) (p p' : Pixel) : Prop :=
  ∃ q, Keeps c.params p q ∧
    (p' = q ∨ ∃ n, (c.regs.om.cycleType = .fill ∨ c.regs.om.cycleType = .copy) ∧ p' = crashLatch n q)

theorem renderLine_rendered {c : Ctx} {range : Int × Nat} {i : Int} {p p' : Pixel} (h : renderLine c range i p = .ok p') :
    Rendered c p p' := by
  unfold renderLine at h
  split at h
  · exact ⟨p', line1_keeps h, .inl rfl⟩
  · exact ⟨p', line2_keeps h, .inl rfl⟩
  · exact ⟨p', lineCopy_keeps h, .inl rfl⟩
  · rename_i hc
    obtain ⟨m, hm, h | h⟩ := lineFill_cases h
    · exact ⟨_, setHost_keeps p hm, .inl h⟩
    · exact ⟨_, setHost_keeps p hm, .inr ⟨_, .inl hc, h⟩⟩

/-- All the renderers can do to the pixel part (R700, R1105). -/
theorem renderSpans_rendered {c : Ctx} {range : Int × Nat} {p p' : Pixel} (h : renderSpans c range p = .ok p') :
    Rendered c p p' := by
  unfold renderSpans at h
  split at h
  · rename_i n hn
    cases h
    refine ⟨p, Keeps.refl _ p, .inr ⟨n, ?_, rfl⟩⟩
    unfold entryCrash at hn
    split at hn
    · cases hn
    · cases hn
    · rename_i hc; exact .inr hc
    · rename_i hc; exact .inl hc
  · refine forE_inv (Q := Rendered c p) (fun j t t' _ _ hq hr => ?_) ⟨p, Keeps.refl _ p, .inl rfl⟩ h
    unfold renderStep at hr
    split at hr
    · cases hr; exact hq
    · rename_i hc
      obtain ⟨q, hk, rfl | ⟨n, _, rfl⟩⟩ := hq
      · obtain ⟨q', hk', h'⟩ := renderLine_rendered hr
        exact ⟨q', hk.trans hk', h'⟩
      · simp at hc

/-- The renderers keep host memory and the coverage buffer canonical. -/
theorem renderSpans_inv {c : Ctx} {range : Int × Nat} {p p' : Pixel} (h : renderSpans c range p = .ok p')
    (hh : hostInv c.params p.host = true) (hc : cvgInv p.cvgbuf = true) :
    hostInv c.params p'.host = true ∧ cvgInv p'.cvgbuf = true := by
  obtain ⟨q, hk, rfl | ⟨n, _, rfl⟩⟩ := renderSpans_rendered h
  · exact ⟨hk.host hh, hk.cvgbuf hc⟩
  · exact ⟨by simpa using hk.host hh, by simpa using hk.cvgbuf hc⟩

/-- All a primitive can change: the edge walker's values and the pixel part. -/
theorem drawPrimitive_cases {P : EdgeParams} {s s' : State} (h : drawPrimitive P s = .ok s') :
    ∃ p, renderSpans (edgeWalk s.toCtx P) (renderRange (edgeWalk s.toCtx P) P) (edgeGradients P s.pixel) = .ok p ∧
      s' = (s.setWalk (edgeWalk s.toCtx P).walk).setPixel p := by
  unfold drawPrimitive at h
  simp only at h
  split at h
  · rename_i p hp
    cases h
    exact ⟨p, hp, rfl⟩
  · cases h

/-- All a rendering command can do (R600, R1106). -/
theorem runPrimitive_next {P : EdgeParams} {s s' : State} (h : runPrimitive P s = .next s') :
    (s.pixel.crashed = true ∧ s' = s) ∨
      (s.pixel.crashed = false ∧ ∃ p,
        renderSpans (edgeWalk s.toCtx P) (renderRange (edgeWalk s.toCtx P) P) (edgeGradients P s.pixel) = .ok p ∧
        s' = (s.setWalk (edgeWalk s.toCtx P).walk).setPixel p) := by
  unfold runPrimitive at h
  split at h
  · rename_i hc
    cases h
    exact .inl ⟨hc, rfl⟩
  · rename_i hc
    cases hd : drawPrimitive P s with
    | error e => rw [hd] at h; cases h
    | ok t =>
      rw [hd] at h
      cases h
      exact .inr ⟨by simpa using hc, drawPrimitive_cases hd⟩

/-- The latch alone makes a rendering command nothing (R1106). -/
theorem runPrimitive_crashed (P : EdgeParams) {s : State} (h : s.pixel.crashed = true) : runPrimitive P s = .next s := by
  unfold runPrimitive
  rw [if_pos h]

theorem runPrimitive_inv {P : EdgeParams} {s s' : State} (h : runPrimitive P s = .next s') (hs : s.Inv) : s'.Inv := by
  rcases runPrimitive_next h with ⟨_, rfl⟩ | ⟨_, p, hp, rfl⟩
  · exact hs
  · obtain ⟨h1, h2, h3, h4, h5, h6⟩ := hs
    obtain ⟨k1, k2⟩ := renderSpans_inv hp h1 h3
    exact ⟨k1, h2, k2, edgeWalk_span_inv P h4, h5, h6⟩

/-! ## Completion -/

theorem renderLine_total {c : Ctx} {range : Int × Nat} {i : Int} (h : lineOk c i) (p : Pixel) :
    ∃ p', renderLine c range i p = .ok p' := by
  unfold renderLine
  unfold lineOk at h
  split <;> rename_i hc <;> rw [hc] at h
  · exact line1_total h p
  · exact line2_total h p
  · exact forE_answers (fun g t _ _ => copyGroupStep_total h.1 h.2 g t) p
  · exact lineFill_total h p

theorem renderSpans_total {s : State} {P : EdgeParams} (h : canDraw s P) (p : Pixel) :
    ∃ p', renderSpans (edgeWalk s.toCtx P) (renderRange (edgeWalk s.toCtx P) P) p = .ok p' := by
  unfold renderSpans
  split
  · exact ⟨_, rfl⟩
  · refine forE_answers (fun n q _ hn => ?_) _
    unfold renderStep
    split
    · exact ⟨_, rfl⟩
    · rename_i hv
      exact renderLine_total (h n (by omega) (by simp_all)) _

/-- A rendering command answers wherever it can draw and the latch is clear. -/
theorem runPrimitive_total {s : State} {P : EdgeParams} (h : canDraw s P) (hc : s.pixel.crashed = false) :
    ∃ p, renderSpans (edgeWalk s.toCtx P) (renderRange (edgeWalk s.toCtx P) P) (edgeGradients P s.pixel) = .ok p ∧
      runPrimitive P s = .next ((s.setWalk (edgeWalk s.toCtx P).walk).setPixel p) := by
  obtain ⟨p, hp⟩ := renderSpans_total h (edgeGradients P s.pixel)
  exact ⟨p, hp, by simp only [runPrimitive, hc, drawPrimitive, hp]; rfl⟩

/-- A primitive that runs into a crash condition checked at its start sets the latch and draws nothing (R740, R750). -/
theorem renderSpans_entryCrash {c : Ctx} {n : CrashName} {range : Int × Nat} (h : entryCrash c range = some n) (p : Pixel) :
    renderSpans c range p = .ok (crashLatch n p) := by
  unfold renderSpans
  rw [h]

end Sys2Proof.Machine
end

