-- ==== Sys2Proof/Laws/Exec.lean ====
section
/-! SUPPORT. One case analysis of `exec`: a command is a primitive, a load, or a control command, and what each kind can change. -/

namespace Sys2Proof.Machine

open Sys2Proof.Config

/-- A rendering command is the primitive of its parameter block (R600 to R607, R630 to R632). -/
theorem exec_primitive {i : Instr} {P : EdgeParams} {s : State} (h : edgeParamsOf s.regs.om.cycleType i = some P) :
    exec i s = runPrimitive P s := by
  cases i <;> simp only [edgeParamsOf, Option.some.injEq, reduceCtorEq] at h <;> subst h <;> rfl

theorem edgeParamsOf_isSome (ct : CycleType) (i : Instr) : (edgeParamsOf ct i).isSome = isRendering i := by
  cases i <;> rfl

/-- What a control command can do to the pixel part: nothing, one diagnostic, or the clearing of the latch (R1107, R1108). -/
inductive ControlPixel (P : Params) (p : Pixel) : Pixel → Prop
  | same : ControlPixel P p p
  | emit (d : Diag) (h : ∀ c, d ≠ .crash c) : ControlPixel P p (p.emit d)
  | clear : ControlPixel P p (clearCrash P p)

/-- Everything a command can do, by kind: a primitive, a load, or a control command. -/
theorem exec_cases {i : Instr} {s t : State} (h : exec i s = .next t) :
    (∃ P, edgeParamsOf s.regs.om.cycleType i = some P ∧ isRendering i = true ∧ isLoad i = false ∧
        runPrimitive P s = .next t) ∨
      (isRendering i = false ∧ isLoad i = true ∧
        ∃ n b m, (tmemInv s.tmem = true → tmemInv m = true) ∧ t = (s.setRegs (s.regs.setBounds n b)).setTmem m ∧
          ((i = .loadTile n b) ∨ (i = .loadTlut n b) ∨ (∃ sl tl sh dxt, i = .loadBlock n sl tl sh dxt))) ∨
      (isRendering i = false ∧ isLoad i = false ∧
        ∃ r p, t = (s.setRegs r).setPixel p ∧ ControlPixel s.params s.pixel p) := by
  cases i
  case loadTile n b =>
    simp only [exec, execLoadTile] at h
    obtain ⟨-, m, hm, rfl⟩ := runLoad_next h
    exact .inr (.inl ⟨rfl, rfl, n, b, m, fun x => loadTileTexels_inv x hm, rfl, .inl rfl⟩)
  case loadTlut n b =>
    simp only [exec, execLoadTlut] at h
    obtain ⟨-, m, hm, rfl⟩ := runLoad_next h
    exact .inr (.inl ⟨rfl, rfl, n, b, m, fun x => loadTlutEntries_inv x hm, rfl, .inr (.inl rfl)⟩)
  case loadBlock n sl tl sh dxt =>
    simp only [exec, execLoadBlock] at h
    obtain ⟨-, m, hm, rfl⟩ := runLoad_next h
    exact .inr (.inl ⟨rfl, rfl, n, _, m, fun x => loadBlockTexels_inv x hm, rfl, .inr (.inr ⟨sl, tl, sh, dxt, rfl⟩)⟩)
  all_goals first
    | exact .inl ⟨_, rfl, rfl, rfl, h⟩
    | (cases h; exact .inr (.inr ⟨rfl, rfl, _, _, rfl, .same⟩))
    | (cases h; exact .inr (.inr ⟨rfl, rfl, s.regs, _, rfl, .emit _ (by simp)⟩))
    | (cases h; exact .inr (.inr ⟨rfl, rfl, _, _, rfl, .clear⟩))

end Sys2Proof.Machine
end

