-- ==== Sys2Proof/Laws/PerInstr.lean ====
section
/-! SUPPORT. The family EncodeLength, one lemma per constructor: an instruction's command words are as many as LEN of its opcode
(R302). -/

namespace Sys2Proof.Laws

/-- The encoder writes LEN[op] words (R302). -/
def EncodeLength.Statement (i : Instr) : Prop := (encode i).length = cmdLen i.op

theorem EncodeLength.nop : EncodeLength.Statement .nop := rfl
theorem EncodeLength.unassigned01 : EncodeLength.Statement .unassigned01 := rfl
theorem EncodeLength.unassigned02 : EncodeLength.Statement .unassigned02 := rfl
theorem EncodeLength.unassigned03 : EncodeLength.Statement .unassigned03 := rfl
theorem EncodeLength.unassigned04 : EncodeLength.Statement .unassigned04 := rfl
theorem EncodeLength.unassigned05 : EncodeLength.Statement .unassigned05 := rfl
theorem EncodeLength.unassigned06 : EncodeLength.Statement .unassigned06 := rfl
theorem EncodeLength.unassigned07 : EncodeLength.Statement .unassigned07 := rfl
theorem EncodeLength.triFill (e : EdgeCoeffs) : EncodeLength.Statement (.triFill e) :=
  (rfl : _ = 4).trans (by decide : 4 = cmdLen 0x08)
theorem EncodeLength.triFillZ (e : EdgeCoeffs) (z : Coeff) : EncodeLength.Statement (.triFillZ e z) :=
  (rfl : _ = 6).trans (by decide : 6 = cmdLen 0x09)
theorem EncodeLength.triTex (e : EdgeCoeffs) (t : TexCoeffs) : EncodeLength.Statement (.triTex e t) :=
  (rfl : _ = 12).trans (by decide : 12 = cmdLen 0x0A)
theorem EncodeLength.triTexZ (e : EdgeCoeffs) (t : TexCoeffs) (z : Coeff) : EncodeLength.Statement (.triTexZ e t z) :=
  (rfl : _ = 14).trans (by decide : 14 = cmdLen 0x0B)
theorem EncodeLength.triShade (e : EdgeCoeffs) (c : ShadeCoeffs) : EncodeLength.Statement (.triShade e c) :=
  (rfl : _ = 12).trans (by decide : 12 = cmdLen 0x0C)
theorem EncodeLength.triShadeZ (e : EdgeCoeffs) (c : ShadeCoeffs) (z : Coeff) : EncodeLength.Statement (.triShadeZ e c z) :=
  (rfl : _ = 14).trans (by decide : 14 = cmdLen 0x0D)
theorem EncodeLength.triShadeTex (e : EdgeCoeffs) (c : ShadeCoeffs) (t : TexCoeffs) :
    EncodeLength.Statement (.triShadeTex e c t) :=
  (rfl : _ = 20).trans (by decide : 20 = cmdLen 0x0E)
theorem EncodeLength.triShadeTexZ (e : EdgeCoeffs) (c : ShadeCoeffs) (t : TexCoeffs) (z : Coeff) :
    EncodeLength.Statement (.triShadeTexZ e c t z) :=
  (rfl : _ = 22).trans (by decide : 22 = cmdLen 0x0F)
theorem EncodeLength.unassigned10 : EncodeLength.Statement .unassigned10 := rfl
theorem EncodeLength.unassigned11 : EncodeLength.Statement .unassigned11 := rfl
theorem EncodeLength.unassigned12 : EncodeLength.Statement .unassigned12 := rfl
theorem EncodeLength.unassigned13 : EncodeLength.Statement .unassigned13 := rfl
theorem EncodeLength.unassigned14 : EncodeLength.Statement .unassigned14 := rfl
theorem EncodeLength.unassigned15 : EncodeLength.Statement .unassigned15 := rfl
theorem EncodeLength.unassigned16 : EncodeLength.Statement .unassigned16 := rfl
theorem EncodeLength.unassigned17 : EncodeLength.Statement .unassigned17 := rfl
theorem EncodeLength.unassigned18 : EncodeLength.Statement .unassigned18 := rfl
theorem EncodeLength.unassigned19 : EncodeLength.Statement .unassigned19 := rfl
theorem EncodeLength.unassigned1A : EncodeLength.Statement .unassigned1A := rfl
theorem EncodeLength.unassigned1B : EncodeLength.Statement .unassigned1B := rfl
theorem EncodeLength.unassigned1C : EncodeLength.Statement .unassigned1C := rfl
theorem EncodeLength.unassigned1D : EncodeLength.Statement .unassigned1D := rfl
theorem EncodeLength.unassigned1E : EncodeLength.Statement .unassigned1E := rfl
theorem EncodeLength.unassigned1F : EncodeLength.Statement .unassigned1F := rfl
theorem EncodeLength.unassigned20 : EncodeLength.Statement .unassigned20 := rfl
theorem EncodeLength.unassigned21 : EncodeLength.Statement .unassigned21 := rfl
theorem EncodeLength.unassigned22 : EncodeLength.Statement .unassigned22 := rfl
theorem EncodeLength.unassigned23 : EncodeLength.Statement .unassigned23 := rfl
theorem EncodeLength.texRect (r : Rect) (tile : BitVec 3) (x : RectTex) : EncodeLength.Statement (.texRect r tile x) := rfl
theorem EncodeLength.texRectFlip (r : Rect) (tile : BitVec 3) (x : RectTex) :
    EncodeLength.Statement (.texRectFlip r tile x) := rfl
theorem EncodeLength.syncLoad : EncodeLength.Statement .syncLoad := rfl
theorem EncodeLength.syncPipe : EncodeLength.Statement .syncPipe := rfl
theorem EncodeLength.syncTile : EncodeLength.Statement .syncTile := rfl
theorem EncodeLength.syncFull : EncodeLength.Statement .syncFull := rfl
theorem EncodeLength.setKeyGb (widthG widthB : BitVec 12) (centerG scaleG centerB scaleB : BitVec 8) :
    EncodeLength.Statement (.setKeyGb widthG widthB centerG scaleG centerB scaleB) := rfl
theorem EncodeLength.setKeyR (widthR : BitVec 12) (centerR scaleR : BitVec 8) :
    EncodeLength.Statement (.setKeyR widthR centerR scaleR) := rfl
theorem EncodeLength.setConvert (k0 k1 k2 k3 k4 k5 : BitVec 9) :
    EncodeLength.Statement (.setConvert k0 k1 k2 k3 k4 k5) := rfl
theorem EncodeLength.setScissor (clip : Rect) (field keepOdd : Bool) :
    EncodeLength.Statement (.setScissor clip field keepOdd) := rfl
theorem EncodeLength.setPrimDepth (z : BitVec 15) (dz : BitVec 16) : EncodeLength.Statement (.setPrimDepth z dz) := rfl
theorem EncodeLength.setOtherModes (om : OtherModes) : EncodeLength.Statement (.setOtherModes om) := rfl
theorem EncodeLength.loadTlut (tile : BitVec 3) (b : TileBounds) : EncodeLength.Statement (.loadTlut tile b) := rfl
theorem EncodeLength.unassigned31 : EncodeLength.Statement .unassigned31 := rfl
theorem EncodeLength.setTileSize (tile : BitVec 3) (b : TileBounds) : EncodeLength.Statement (.setTileSize tile b) := rfl
theorem EncodeLength.loadBlock (tile : BitVec 3) (sl tl sh dxt : BitVec 12) :
    EncodeLength.Statement (.loadBlock tile sl tl sh dxt) := rfl
theorem EncodeLength.loadTile (tile : BitVec 3) (b : TileBounds) : EncodeLength.Statement (.loadTile tile b) := rfl
theorem EncodeLength.setTile (tile : BitVec 3) (m : TileMode) : EncodeLength.Statement (.setTile tile m) := rfl
theorem EncodeLength.fillRect (r : Rect) : EncodeLength.Statement (.fillRect r) := rfl
theorem EncodeLength.setFillColor (c : BitVec 32) : EncodeLength.Statement (.setFillColor c) := rfl
theorem EncodeLength.setFogColor (c : Rgba8) : EncodeLength.Statement (.setFogColor c) := rfl
theorem EncodeLength.setBlendColor (c : Rgba8) : EncodeLength.Statement (.setBlendColor c) := rfl
theorem EncodeLength.setPrimColor (lodMin : BitVec 5) (lodFrac : BitVec 8) (c : Rgba8) :
    EncodeLength.Statement (.setPrimColor lodMin lodFrac c) := rfl
theorem EncodeLength.setEnvColor (c : Rgba8) : EncodeLength.Statement (.setEnvColor c) := rfl
theorem EncodeLength.setCombine (cc : CombineMode) : EncodeLength.Statement (.setCombine cc) := rfl
theorem EncodeLength.setTextureImage (img : ImageDesc) : EncodeLength.Statement (.setTextureImage img) := rfl
theorem EncodeLength.setMaskImage (address : BitVec 26) : EncodeLength.Statement (.setMaskImage address) := rfl
theorem EncodeLength.setColorImage (img : ImageDesc) : EncodeLength.Statement (.setColorImage img) := rfl

end Sys2Proof.Laws
end

