-- ==== Sys2Proof/Tests/Slice0.lean ====
section
/-! SUPPORT. The model's own tests: words written from the spec's layouts, one step each on small states, with expected values
from 95_test_vectors.md or by hand from the rules cited; and, for every statement with hypotheses, a state and operands
that meet them. -/

namespace Sys2Proof.Tests

open Sys2Proof Sys2Proof.Machine Sys2Proof.Config

-- One theorem at a time: many kernel evaluations at once take more threads than the memory limit allows.
set_option Elab.async false

/-! ## Well-formedness and decoding -/

/-- R313: an image width is 1..1024; both image commands refuse 0 and 1025. -/
theorem test_wf_refuses_width :
    (Instr.setColorImage { format := 0, size := .b16, width := 0, address := 0 }).wf = false ∧
      (Instr.setColorImage { format := 0, size := .b16, width := 1025, address := 0 }).wf = false ∧
      (Instr.setTextureImage { format := 0, size := .b16, width := 0, address := 0 }).wf = false ∧
      (Instr.setTextureImage { format := 0, size := .b16, width := 1025, address := 0 }).wf = false := by decide

theorem test_wf_accepts_width :
    (Instr.setColorImage { format := 0, size := .b16, width := 1, address := 0 }).wf = true ∧
      (Instr.setTextureImage { format := 0, size := .b16, width := 1024, address := 0 }).wf = true := by decide

/-- Section 2 of 95_test_vectors.md, the rows SampleWordsDecode does not have. -/
theorem test_decode_section2 :
    decode [0x3900000000000080] = .ok (.setBlendColor { r := 0, g := 0, b := 0, a := 128 }, 1) ∧
      decode [0x3A001F4011223344] = .ok (.setPrimColor 31 0x40 { r := 0x11, g := 0x22, b := 0x33, a := 0x44 }, 1) ∧
      decode [0x3B000000FFFFFFFF] = .ok (.setEnvColor { r := 255, g := 255, b := 255, a := 255 }, 1) ∧
      decode [0x37000000F801F801] = .ok (.setFillColor 0xF801F801, 1) ∧
      decode [0x2B00000001008010] = .ok (.setKeyR 0x100 0x80 0x10, 1) ∧
      decode [0x2E0000007FFF0001] = .ok (.setPrimDepth 0x7FFF 1, 1) ∧
      decode [0x3D10001F00200000] = .ok (.setTextureImage { format := 0, size := .b16, width := 32, address := 0x200000 }, 1) ∧
      decode [0x3E00000000200000] = .ok (.setMaskImage 0x200000, 1) ∧
      decode [0x3510080000000000] =
        .ok (.setTile 0 { format := 0, size := .b16, line := 4, tmem := 0, palette := 0, ct := false, mt := false, maskT := 0,
                          shiftT := 0, cs := false, ms := false, maskS := 0, shiftS := 0 }, 1) := by decide +kernel

/-- Section 2 and D-10 to D-12 of 95_test_vectors.md: the mode words. -/
theorem test_decode_modes :
    decode [0x2F30000000000000] = .ok (.setOtherModes { OtherModes.reset with cycleType := .fill }, 1) ∧
      decode [0x2F0000F000000034] =
        .ok (.setOtherModes { OtherModes.reset with rgbDitherSel := .none, alphaDitherSel := .none, zUpdateEn := true,
                                                    zCompareEn := true, zSourceSel := true }, 1) ∧
      decode [0x2F000CF000000020] =
        .ok (.setOtherModes { OtherModes.reset with biLerp0 := true, biLerp1 := true, rgbDitherSel := .none,
                                                    alphaDitherSel := .none, zUpdateEn := true }, 1) ∧
      decode [0x3CFFFFFFFFFDF6FB] =
        .ok (let k : CombineCycle := { subArgb := 15, subBrgb := 15, mulRgb := 31, addRgb := 3, subAa := 7, subBa := 7,
                                       mulA := 7, addA := 3 }
             .setCombine { c0 := k, c1 := k }, 1) := by decide +kernel

/-- D-1 to D-4 of 95_test_vectors.md: lengths, and bits 63:62 ignored. -/
theorem test_decode_lengths :
    cmdLen 0x0B = 14 ∧ cmdLen 0x0E = 20 ∧ cmdLen 0x24 = 2 ∧
      (decodeCmd [0x0B80002800280008] = decodeCmd [0x4B80002800280008]) ∧
      decodeTableWord 64 0x4B80002800280008 = decodeTableWord 64 0x0B80002800280008 := by decide +kernel

/-- The words of a one-word row and of a row of several words, as the opcode table numbers their bits. -/
theorem test_decodeTableWord :
    decodeTableWord 64 0x37000000F801F801 = some (.setFillColor 0xF801F801) ∧
      decodeTableWord 128 (0x2403C02C00000000 + 0x0020004004000800 * 2 ^ 64) =
        some (.texRect { xl := 60, yl := 44, xh := 0, yh := 0 } 0 { s := 0x20, t := 0x40, dsdx := 0x400, dtdy := 0x800 }) := by
  decide +kernel

/-! ## Small states -/

/-- The value of a check on the state after a command; false if it answers none. -/
def after (i : Instr) (s : State) (f : State → Bool) : Bool :=
  match exec i s with
  | .next t => f t
  | .fault _ => false
  | .refused _ => false

/-- What a command faults with. -/
def faultOf (i : Instr) (s : State) : Option Fault :=
  match exec i s with
  | .next _ => none
  | .fault f => some f
  | .refused _ => none

/-- A combiner that passes one colour input: sub_a, sub_b and mul ZERO, add = `n` (R902, R906). -/
def passInput (n : BitVec 3) : CombineMode :=
  let k : CombineCycle := { subArgb := 15, subBrgb := 15, mulRgb := 31, addRgb := n, subAa := 7, subBa := 7, mulA := 7, addA := n }
  { c0 := k, c1 := k }

/-- A 16-bit RGBA image of width 32 at 0x100000, a clip of 32 by 32 pixels, no dither (95_test_vectors.md section 3.3). -/
def regs0 : Regs :=
  { Regs.reset with
    om := { OtherModes.reset with rgbDitherSel := .none, alphaDitherSel := .none }
    clip := { xh := 0, yh := 0, xl := 128, yl := 128 }
    fbSize := .b16
    fbWidth := 32
    fbAddress := 0x100000
    zbAddress := 0x110000
    primColor := { r := 255, g := 0, b := 0, a := 255 }
    cc := passInput 3 }

/-- Host memory with the given bytes, zeros elsewhere (R207). -/
def zeroMem (m : List Host.Cell) : HostMem := { mem := m, hid := [], init := .zeros }

/-- The reset state with the registers `r`, host memory initialized to zeros. -/
def withRegs (r : Regs) : State := (State.reset.setRegs r).setPixel { Pixel.reset with host := zeroMem [] }

/-- 1-cycle mode, combiner PRIM. -/
def primState : State := withRegs regs0

/-- 1-cycle mode, combiner input `n`, depth written. -/
def zState (n : BitVec 3) : State :=
  withRegs { regs0 with cc := passInput n, om := { regs0.om with zUpdateEn := true, biLerp0 := true, biLerp1 := true } }

/-- Fill mode, fill word 0xF801F801. -/
def fillState : State :=
  withRegs { regs0 with om := { regs0.om with cycleType := .fill }, fillColor := 0xF801F801 }

/-- Copy mode; tile 0 is 16-bit RGBA, one word a line, and TMEM's first texels are 0xF801, 0x07C1. -/
def copyState : State :=
  (withRegs { regs0 with om := { regs0.om with cycleType := .copy },
                         tile := regs0.tile.set 0 { Tile.reset with size := .b16, line := 1, sh := 12, th := 12 } }).setTmem
    [(0, 0xF8), (1, 0x01), (2, 0x07), (3, 0xC1)]

/-- The halfword of pixel (x, y) of the image and its hidden field. -/
def pixelAt (s : State) (x y : Nat) : Nat × Nat :=
  (readBytes s.params s.pixel.host (0x100000 + 2 * (32 * y + x) : Nat) 2, (s.pixel.host.hidden (0x80000 + 32 * y + x)).toNat)

/-- The depth halfword of pixel (x, y). -/
def depthAt (s : State) (x y : Nat) : Nat := readBytes s.params s.pixel.host (0x110000 + 2 * (32 * y + x) : Nat) 2

/-- The edges of a two-by-one pixel parallelogram: scanline 0, x from 0.0 to 2.0, all edges upright (R318, R611). -/
def edges : EdgeCoeffs :=
  { flip := true, maxLevel := 0, tile := 0, yl := 4, ym := 4, yh := 0, xl := 0x20000, dxldy := 0, xh := 0, dxhdy := 0,
    xm := 0x20000, dxmdy := 0 }

/-- A coefficient without gradients. -/
def flat (v : BitVec 32) : Coeff := { Coeff.zero with v := v }

/-- Shade 255.0 in every channel. -/
def white : ShadeCoeffs := { r := flat 0xFF0000, g := flat 0xFF0000, b := flat 0xFF0000, a := flat 0xFF0000 }

/-- What `after` says: the command answers a next state that passes the check. -/
theorem after_spec {i : Instr} {s : State} {f : State → Bool} (h : after i s f = true) : ∃ t, exec i s = .next t ∧ f t = true := by
  unfold after at h
  split at h
  · exact ⟨_, by assumption, h⟩
  · cases h
  · cases h

theorem faultOf_spec {i : Instr} {s : State} {f : Fault} (h : faultOf i s = some f) : exec i s = .fault f := by
  unfold faultOf at h
  split at h
  · cases h
  · cases h; assumption
  · cases h

/-- An operation that answers. -/
theorem exists_ok {α : Type} {r : Except Fault α} (h : r.isOk = true) : ∃ v, r = .ok v := by
  cases r with
  | ok v => exact ⟨v, rfl⟩
  | error e => cases h

/-! ## Rendering -/

/-- V8 of 95_test_vectors.md: a one-point fill rectangle writes one pixel. -/
theorem test_fillRect_point :
    after (.fillRect { xh := 40, yh := 40, xl := 40, yl := 40 }) fillState (fun t =>
      pixelAt t 10 10 == (0xF801, 3) && pixelAt t 9 10 == (0, 0) && pixelAt t 11 10 == (0, 0) && pixelAt t 10 11 == (0, 0)) =
      true := by decide +kernel

/-- E3: coverage decides which pixels of a 1-cycle rectangle are written, and with what. -/
theorem test_fillRect_coverage :
    after (.fillRect { xh := 5, yh := 2, xl := 14, yl := 9 }) primState (fun t =>
      pixelAt t 1 1 == (0, 0) && pixelAt t 2 1 == (0xF801, 3) && pixelAt t 3 1 == (0xF800, 3) && pixelAt t 2 0 == (0, 0) &&
        pixelAt t 2 2 == (0xF800, 1) && pixelAt t 3 2 == (0xF800, 0)) = true := by decide +kernel

/-- R600: no shade, texture or depth coefficients; the combiner's PRIM is written. -/
theorem test_triFill :
    after (.triFill edges) primState (fun t =>
      pixelAt t 0 0 == (0xF801, 3) && pixelAt t 1 0 == (0xF801, 3) && pixelAt t 2 0 == (0, 0) && pixelAt t 0 1 == (0, 0)) =
      true := by decide +kernel

/-- R601 with vector Z22: depth 0x1234 << 3 = 0x91A0 is stored as 0x0918. -/
theorem test_triFillZ :
    after (.triFillZ edges (flat 0x12340000)) (zState 3) (fun t =>
      pixelAt t 1 0 == (0xF801, 3) && depthAt t 0 0 == 0x0918 && depthAt t 1 0 == 0x0918 && depthAt t 2 0 == 0) = true := by
  decide +kernel

/-- The texture coefficients that walk one texel per pixel along s (R320: s10.5 in the high half). -/
def walkS : TexCoeffs := { s := { Coeff.zero with dx := 0x200000 }, t := .zero, w := .zero }

/-- A tile of 16-bit RGBA texels, one word a line, no wrap: texels (0,0), (1,0) and (0,1) are 0xF801, 0x07C1, 0x003F. -/
def texState (om : OtherModes) : State :=
  (withRegs { regs0 with cc := passInput 1, om := { om with biLerp0 := true, biLerp1 := true },
                         tile := regs0.tile.set 0 { Tile.reset with size := .b16, line := 1, sh := 12, th := 12 } }).setTmem
    [(0, 0xF8), (1, 0x01), (2, 0x07), (3, 0xC1), (13, 0x3F)]

/-- R602: a textured triangle writes its texels. -/
theorem test_triTex :
    after (.triTex edges walkS) (texState regs0.om) (fun t => pixelAt t 0 0 == (0xF801, 3) && pixelAt t 1 0 == (0x07C1, 3)) =
      true := by decide +kernel

/-- R603: texels and depth. -/
theorem test_triTexZ :
    after (.triTexZ edges walkS (flat 0x12340000)) (texState { regs0.om with zUpdateEn := true }) (fun t =>
      pixelAt t 0 0 == (0xF801, 3) && pixelAt t 1 0 == (0x07C1, 3) && depthAt t 1 0 == 0x0918) = true := by decide +kernel

/-- R604: shade 255.0 writes white. -/
theorem test_triShade :
    after (.triShade edges white) (withRegs { regs0 with cc := passInput 4 }) (fun t =>
      pixelAt t 0 0 == (0xFFFF, 3) && pixelAt t 1 0 == (0xFFFF, 3) && pixelAt t 2 0 == (0, 0)) = true := by decide +kernel

/-- R605. -/
theorem test_triShadeZ :
    after (.triShadeZ edges white (flat 0x12340000)) (zState 4) (fun t =>
      pixelAt t 1 0 == (0xFFFF, 3) && depthAt t 1 0 == 0x0918) = true := by decide +kernel

/-- R606: shade and texture are both there; the combiner picks one. -/
theorem test_triShadeTex :
    after (.triShadeTex edges white walkS) (withRegs { regs0 with cc := passInput 4 }) (fun t => pixelAt t 1 0 == (0xFFFF, 3)) &&
      after (.triShadeTex edges white walkS) (texState regs0.om) (fun t => pixelAt t 1 0 == (0x07C1, 3)) = true := by
  decide +kernel

/-- R607, the flat white triangle of the spec's example, with its depth. -/
theorem test_triShadeTexZ :
    after (.triShadeTexZ edges white walkS (flat 0x12340000)) (zState 4) (fun t =>
      pixelAt t 0 0 == (0xFFFF, 3) && pixelAt t 1 0 == (0xFFFF, 3) && pixelAt t 2 0 == (0, 0) && depthAt t 0 0 == 0x0918) =
      true := by decide +kernel

/-- R630: one texel per pixel along x. -/
theorem test_texRect :
    after (.texRect { xh := 0, yh := 0, xl := 8, yl := 4 } 0 { s := 0, t := 0, dsdx := 0x400, dtdy := 0x400 })
      (texState regs0.om) (fun t => pixelAt t 0 0 == (0xF801, 3) && pixelAt t 1 0 == (0x07C1, 3) && pixelAt t 2 0 == (0, 0)) =
      true := by decide +kernel

/-- R630, R750: a copy rectangle includes its right edge and takes a group per 8 bytes. -/
theorem test_texRect_copy :
    after (.texRect { xh := 0, yh := 0, xl := 4, yl := 0 } 0 { s := 0, t := 0, dsdx := 0x1000, dtdy := 0x400 })
      copyState (fun t => pixelAt t 0 0 == (0xF801, 3) && pixelAt t 1 0 == (0x07C1, 3) && pixelAt t 2 0 == (0, 0)) =
      true := by decide +kernel

/-- R751 with en_tlut and an 8-bit target: the copy runs, its group a free value (log entry 15). -/
theorem test_texRect_copy_tlut8 :
    after (.texRect { xh := 0, yh := 0, xl := 28, yl := 0 } 1 { s := 0, t := 0, dsdx := 0x2000, dtdy := 0x400 })
      (copyState.setRegs { copyState.regs with fbSize := .b8, om := { copyState.regs.om with enTlut := true },
                                               tile := copyState.regs.tile.set 1 { Tile.reset with size := .b8, line := 1 } })
      (fun t => t.pixel.draws == 1 && !t.pixel.crashed) = true := by decide +kernel

/-- R853, R902: a fraction of nine bits is held as R129's eight and the bit above, and read whole. -/
theorem test_lodFraction :
    ({ Pixel.reset with lodFrac := 0xF8, lodFracBit8 := true } : Pixel).lodFraction = 0x1F8 := by decide

/-- R631: the axes are exchanged, so t advances along x; the odd row is read with the swizzle undone (R820). -/
theorem test_texRectFlip :
    after (.texRectFlip { xh := 0, yh := 0, xl := 8, yl := 4 } 0 { s := 0, t := 0, dsdx := 0x400, dtdy := 0x400 })
      (texState regs0.om) (fun t => pixelAt t 0 0 == (0xF801, 3) && pixelAt t 1 0 == (0x003F, 3)) = true := by decide +kernel

/-! ## Loads -/

/-- A 16-bit texture image of width 32 at 0x200000, tile 0 with line 8, tile 7 at TMEM word 0x100; three texels written. -/
def loadState : State :=
  let r := { Regs.reset with tiSize := .b16, tiWidth := 32, tiAddress := 0x200000 }
  let r := r.setTile 0 { Tile.reset with size := .b16, line := 8 }
  let s := withRegs (r.setTile 7 { Tile.reset with tmem := 0x100 })
  s.setPixel { s.pixel with host := zeroMem [(0x200006, 0xAB), (0x200007, 0xCD), (0x200022, 0x12), (0x200023, 0x34),
                                             (0x200042, 0x01), (0x200043, 0x01)] }

/-- The worked example of R500: texel (1, 1), at host 0x200042, lands at TMEM bytes (0x40 + 2) ^ 4. -/
theorem test_loadTile :
    after (.loadTile 0 { sl := 0, tl := 0, sh := 12, th := 4 }) loadState (fun t =>
      t.tmem == [(0x06, 0xAB), (0x07, 0xCD), (0x46, 0x01), (0x47, 0x01)] && (t.regs.getTile 0).sh == 12) = true := by
  decide +kernel

/-- The worked example of R501: with dxt = 0x200, word 4 is swizzled. -/
theorem test_loadBlock :
    after (.loadBlock 0 0 0 17 0x200) loadState (fun t =>
      t.tmem == [(0x06, 0xAB), (0x07, 0xCD), (0x26, 0x12), (0x27, 0x34)] && (t.regs.getTile 0).th == 0x200) = true := by
  decide +kernel

/-- The worked example of R502: entry 3 of a palette at word 0x100 lands at halfwords 0x40C to 0x40F. -/
theorem test_loadTlut :
    after (.loadTlut 7 { sl := 0, tl := 0, sh := 12, th := 0 }) loadState (fun t =>
      t.tmem == [(0x818, 0xAB), (0x819, 0xCD), (0x81A, 0xAB), (0x81B, 0xCD)] ++
        [(0x81C, 0xAB), (0x81D, 0xCD), (0x81E, 0xAB), (0x81F, 0xCD)]) = true := by decide +kernel

/-! ## Errors, control, fetching -/

/-- X1, X3: the 4-bit fill crash warns, and SET_COLOR_IMAGE clears the latch but not the warned set. -/
theorem test_crash_and_clear :
    after (.fillRect { xh := 0, yh := 0, xl := 4, yl := 4 }) (fillState.setRegs { fillState.regs with fbSize := .b4 }) (fun t =>
      t.pixel.crashed && t.pixel.diag.map Diag.text == ["crash: fill 4-bit target"] &&
        after (.setColorImage { format := 0, size := .b16, width := 16, address := 0 }) t (fun u =>
          !u.pixel.crashed && u.pixel.warned.fill4BitTarget)) = true := by decide +kernel

/-- X5, X6: the diagnostics of an unassigned opcode and of SYNC_FULL. -/
theorem test_diagnostics :
    after .unassigned31 State.reset (fun t => t.pixel.diag.map Diag.text == ["unassigned opcode 0x31"]) &&
      after .syncFull State.reset (fun t => t.pixel.diag.map Diag.text == ["SyncFull"]) = true := by decide +kernel

/-- A step of a word placed by `withFetchWord` runs it: SET_FILL_COLOR, then a TEX_RECT of two words. -/
theorem test_withFetchWord :
    (match step (State.reset.withFetchWord 64 0x37000000F801F801) with
      | .next t => t.regs.fillColor == 0xF801F801 && t.cmdIndex == 1
      | .fault _ => false
      | .refused _ => false) &&
      (match step (primState.withFetchWord 128 (0x2400800400000000 + 0 * 2 ^ 64)) with
      | .next t => pixelAt t 1 0 == (0xF801, 3) && t.cmdIndex == 2
      | .fault _ => false
      | .refused _ => false) = true := by decide +kernel

/-- R1207 and D-6: with too few words the engine is stuck. -/
theorem test_stuck :
    (match step (State.reset.setCmds (List.replicate 13 0x0B80002800280008)) with
      | .next _ => false
      | .fault f => f == .stuck
      | .refused _ => false) = true := by decide +kernel

/-- Vectors TC1, TC3, TC4, TC6: wrap, mirror, clamp and shift on one axis (R810 to R815), in texels. -/
theorem test_texel_index :
    let ix := fun (x : TileAxis) (k : Nat) => wrapCoord x (axisCoord x (k * 32)).1
    let base : TileAxis := { clamp := false, mirror := false, mask := 0, shift := 0, lo := 0, hi := 0 }
    (List.range 6).map (ix { base with mirror := true, mask := 2, hi := 12 }) = [0, 1, 2, 3, 3, 2] ∧
      (List.range 6).map (ix { base with clamp := true, hi := 12 }) = [0, 1, 2, 3, 3, 3] ∧
      (List.range 8).map (ix { base with clamp := true, mask := 2, hi := 20 }) = [0, 1, 2, 3, 0, 1, 1, 1] ∧
      (List.range 6).map (ix { base with mask := 10, shift := 15 }) = [0, 2, 4, 6, 8, 10] := by decide +kernel

/-- Vectors ZC2, ZC4, ZC9, ZC12 (R1016). -/
theorem test_depth_compare :
    let z := fun (m : ZMode) (sz cvg memcvg : Nat) => zTest { OtherModes.reset with zMode := m } 0 0x0800 0 sz 1 0 cvg memcvg
    (z .opaqueZ 0x10000 8 7).pass = false ∧ (z .opaqueZ 0x8040 4 3).pass = true ∧ (z .decal 0x8040 8 7).pass = true ∧
      (z .interpenetrating 0x7FF0 4 7).pass = true ∧ (z .interpenetrating 0x7FF0 4 7).cvg = 0 := by decide +kernel

/-! ## Witnesses: for each statement with hypotheses, a state and operands that meet them -/

theorem witness_StepRunsDecodedCommand :
    ((State.reset.setCmds [0x0B00000000000000 >>> 8 <<< 8]).cmds.drop 0 = [0x0B00000000000000] ∧
        ([] : List Word64).length + 1 < cmdLen ((0x0B00000000000000 : Word64).extractLsb' 56 6)) ∧
      ((State.reset.setCmds [0x2400000000000000, 0]).cmds.drop 0 = [0x2400000000000000, 0] ∧
        cmdLen ((0x2400000000000000 : Word64).extractLsb' 56 6) ≤ [(0 : Word64)].length + 1) ∧
      State.reset.cmds.drop State.reset.cmdIndex = [] := by decide +kernel

theorem witness_CommandLengths :
    ¬(0x08 ≤ (0x07 : BitVec 6).toNat ∧ (0x07 : BitVec 6).toNat ≤ 0x0F) ∧
      ¬(0x08 ≤ (0x10 : BitVec 6).toNat ∧ (0x10 : BitVec 6).toNat ≤ 0x0F) ∧ (0x10 : BitVec 6) ≠ 0x24 ∧ (0x10 : BitVec 6) ≠ 0x25 ∧
      (0x08 ≤ (0x08 : BitVec 6).toNat ∧ (0x08 : BitVec 6).toNat ≤ 0x0F) ∧
      (0x08 ≤ (0x0F : BitVec 6).toNat ∧ (0x0F : BitVec 6).toNat ≤ 0x0F) := by decide

theorem witness_DecodeEncodeAgree :
    (Instr.setColorImage { format := 7, size := .b32, width := 1024, address := 0x3FFFFFF }).wf = true ∧
      (Instr.triFill edges).wf = true := by decide

theorem witness_EveryWordDecodes :
    cmdLen ((0 : Word64).extractLsb' 56 6) ≤ ([] : List Word64).length + 1 ∧
      cmdLen ((0x0F00000000000000 : Word64).extractLsb' 56 6) ≤ (List.replicate 21 (0 : Word64)).length + 1 := by decide

theorem witness_UnnamedBitsAreIgnored :
    let w : Word64 := 0x3400000000000000
    let w' : Word64 := 0xF400000008000000
    cmdLen (w.extractLsb' 56 6) = 1 ∧ w' ≠ w ∧
      ∀ f ∈ fld 56 (decodeCmd [w]).op :: (decodeCmd [w]).fields, w'.extractLsb' f.lo f.len = w.extractLsb' f.lo f.len := by
  decide +kernel

theorem witness_SuppliedWordsResumeTheEngine :
    let i : Instr := .texRect { xh := 0, yh := 0, xl := 8, yl := 4 } 0 { s := 0, t := 0, dsdx := 0x400, dtdy := 0x400 }
    let s := State.reset.setCmds ((encode i).take 1)
    i.wf = true ∧ s.cmdIndex ≤ s.cmds.length ∧ (encode i).drop 1 ≠ [] ∧
      s.cmds.drop s.cmdIndex ++ (encode i).drop 1 = encode i := by decide +kernel

/-- Every opcode of a statement that starts from one is some word's, its highest bits set or clear. -/
theorem witness_opcodes (op : BitVec 6) :
    ((0x3#2 ++ op ++ 0x0#56 : Word64).extractLsb' 56 6 = op) ∧ ((0x0#2 ++ op ++ 0x0#56 : Word64).extractLsb' 56 6 = op) := by
  revert op; decide +kernel

theorem witness_TileCommandsWriteOneTile : (1 : BitVec 3) ≠ 0 ∧ (6 : BitVec 3) ≠ 7 := by decide

theorem witness_UnassignedOpcodesWarn :
    ((0x3100000000000000 : Word64).extractLsb' 56 6 = 0x31) ∧ ((0x0100000000000000 : Word64).extractLsb' 56 6 = 0x01) := by decide

theorem witness_CrashLatchWarnsOnce :
    Pixel.reset.warned.has .copy32BitTarget = false ∧
      (crashLatch .copy32BitTarget Pixel.reset).warned.has .copy32BitTarget = true := by decide

/-- A one-point rectangle inside the clip. -/
def point : Instr := .fillRect { xh := 40, yh := 40, xl := 40, yl := 40 }

/-- Fill mode with the latch set. -/
def crashedState : State := fillState.setPixel { fillState.pixel with crashed := true }

theorem witness_LatchStopsRenderingAlone :
    isRendering point = true ∧ crashedState.pixel.crashed = true ∧ isRendering .nop = false := by decide

/-- The two illegal targets, each in its cycle type. -/
def fill4 : State := fillState.setRegs { fillState.regs with fbSize := .b4 }

def copy32 : State := copyState.setRegs { copyState.regs with fbSize := .b32 }

/-- The 4-bit fill crash under R1204's proviso, with a clip that lets scanlines through and with none. -/
def fill4Drawn : State := { fill4 with params := { Params.default with fill4Check := .withScanline } }

def fill4Empty : State := fill4Drawn.setRegs { fill4.regs with clip := { xh := 0, yh := 0, xl := 0, yl := 0 } }

/-- The scanlines that the scissor lets through. -/
def drawnLines (s : State) (P : EdgeParams) : Bool := hasScanline (edgeWalk s.toCtx P) (renderRange (edgeWalk s.toCtx P) P)

theorem witness_IllegalTargetsCrash :
    (∃ P, edgeParamsOf fill4.regs.om.cycleType point = some P ∧ drawnLines fill4Drawn P = true ∧
        drawnLines fill4Empty P = false) ∧
      fill4.pixel.crashed = false ∧ (fill4.regs.om.cycleType = .fill ∧ fill4.regs.fbSize = .b4) ∧
      fill4.params.fill4Check = .always ∧ fill4Drawn.params.fill4Check = .withScanline ∧
      fill4Empty.params.fill4Check = .withScanline ∧
      (∃ P, edgeParamsOf copy32.regs.om.cycleType (.triTex edges walkS) = some P) ∧ copy32.pixel.crashed = false ∧
      copy32.regs.om.cycleType = .copy ∧ copy32.regs.fbSize = .b32 :=
  ⟨⟨_, rfl, by decide +kernel, by decide +kernel⟩, rfl, ⟨rfl, rfl⟩, rfl, rfl, rfl, ⟨_, rfl⟩, rfl, rfl, rfl⟩

/-- R1204's proviso: the crash needs a scanline under the one setting, and none under the other. -/
theorem test_fill4Check :
    after point fill4Drawn (fun t => t.pixel.crashed) && after point fill4Empty (fun t => !t.pixel.crashed) &&
      after point { fill4Empty with params := Params.default } (fun t => t.pixel.crashed) = true := by decide +kernel

/-- Fill mode with image read on, or with the depth compare on. -/
def fillRead : State := fillState.setRegs { fillState.regs with om := { fillState.regs.om with imageReadEn := true } }

def fillDepth : State := fillState.setRegs { fillState.regs with om := { fillState.regs.om with zCompareEn := true } }

theorem witness_FastKillDrawsNothing :
    (∃ P, edgeParamsOf fillRead.regs.om.cycleType point = some P) ∧ fillRead.pixel.crashed = false ∧
      fillRead.regs.om.cycleType = .fill ∧ fillRead.regs.fbSize ≠ .b4 ∧ fillRead.params.fillKillMode = .standard ∧
      fillRead.regs.om.imageReadEn = true ∧ fillDepth.regs.om.zCompareEn = true ∧
      (∃ t, exec point fillRead = .next t ∧ (t.pixel.crashed == true) = true) ∧
      (∃ t, exec point fillDepth = .next t ∧ (t.pixel.crashed == true) = true) ∧
      ∃ t, exec (.fillRect { xh := 40, yh := 48, xl := 40, yl := 40 }) fillRead = .next t ∧ (t.pixel.crashed == false) = true :=
  ⟨⟨_, rfl⟩, rfl, rfl, by decide, rfl, rfl, rfl, after_spec (by decide +kernel), after_spec (by decide +kernel),
    after_spec (by decide +kernel)⟩

/-- Fill mode with the depth update on, from the pixel's depth. -/
def fillUpdate : State := fillState.setRegs { fillState.regs with om := { fillState.regs.om with zUpdateEn := true } }

/-- R740, R1104: with slowkill the first non-empty scanline is written, then the crash stops the primitive. -/
theorem test_slowKill :
    after (.fillRect { xh := 40, yh := 40, xl := 40, yl := 44 }) fillUpdate (fun t =>
      t.pixel.crashed && pixelAt t 10 10 == (0xF801, 3) && pixelAt t 10 11 == (0, 0)) = true := by decide +kernel

theorem witness_OnlyImageCommandsClearTheLatch :
    (∃ t, exec (.setMaskImage 0) crashedState = .next t ∧ (!t.pixel.crashed && crashedState.pixel.crashed) = true) ∧
      crashedState.params.crashClearedBySetImage = true ∧
      ∃ t, exec point fill4 = .next t ∧ t.pixel.warned.has .fill4BitTarget = true :=
  ⟨after_spec (by decide +kernel), rfl, after_spec (f := fun t => t.pixel.warned.has .fill4BitTarget) (by decide +kernel)⟩

theorem witness_OnlyRenderingCrashes :
    ∃ t, exec point fill4 = .next t ∧
      (!fill4.pixel.crashed && t.pixel.crashed && t.pixel.warned != fill4.pixel.warned) = true :=
  after_spec (f := fun t => !fill4.pixel.crashed && t.pixel.crashed && t.pixel.warned != fill4.pixel.warned) (by decide +kernel)

theorem witness_DiagnosticsOnlyGrow : ∃ t, exec point fill4 = .next t ∧ (t.pixel.diag != []) = true :=
  after_spec (f := fun t => t.pixel.diag != []) (by decide +kernel)

theorem witness_CursorMovesByCommandLength : ∃ t, step (State.reset.setCmds [0]) = .next t := ⟨_, rfl⟩

theorem witness_OnlyLoadsAndRenderingTouchMemory :
    (∃ t, exec (.loadTile 0 { sl := 0, tl := 0, sh := 12, th := 4 }) loadState = .next t ∧ (t.tmem != loadState.tmem) = true) ∧
      ∃ t, exec point fillState = .next t ∧ (t.pixel.host != fillState.pixel.host) = true :=
  ⟨after_spec (f := fun t => t.tmem != loadState.tmem) (by decide +kernel),
    after_spec (f := fun t => t.pixel.host != fillState.pixel.host) (by decide +kernel)⟩

/-- A command that changes what `f` reads of the registers. -/
def changes {α : Type} [DecidableEq α] (i : Instr) (f : Regs → α) : Bool :=
  after i State.reset (fun t => decide (f t.regs ≠ f State.reset.regs))

theorem witness_RegistersHaveTheirWriters :
    let c : Rgba8 := { r := 1, g := 0, b := 0, a := 0 }
    let z : Rgba8 := { r := 0, g := 0, b := 0, a := 0 }
    let empty : Rect := { xh := 0, yh := 0, xl := 0, yl := 0 }
    let d : ImageDesc := { format := 3, size := .b16, width := 2, address := 16 }
    (changes (.setOtherModes fillState.regs.om) Regs.om && changes (.setCombine (passInput 3)) Regs.cc &&
      changes (.setFogColor c) Regs.fogColor && changes (.setBlendColor c) Regs.blendColor &&
      changes (.setPrimColor 0 0 c) Regs.primColor && changes (.setPrimColor 1 0 z) Regs.primLodMin &&
      changes (.setPrimColor 0 1 z) Regs.primLodFrac && changes (.setEnvColor c) Regs.envColor &&
      changes (.setFillColor 1) Regs.fillColor) &&
    (changes (.setKeyR 1 0 0) (fun r => r.keyWidth.r) && changes (.setKeyR 0 1 0) (fun r => r.keyCenter.r) &&
      changes (.setKeyR 0 0 1) (fun r => r.keyScale.r) && changes (.setKeyGb 1 0 0 0 0 0) (fun r => r.keyWidth.g) &&
      changes (.setKeyGb 0 1 0 0 0 0) (fun r => r.keyWidth.b) && changes (.setKeyGb 0 0 1 0 0 0) (fun r => r.keyCenter.g) &&
      changes (.setKeyGb 0 0 0 1 0 0) (fun r => r.keyScale.g) && changes (.setKeyGb 0 0 0 0 1 0) (fun r => r.keyCenter.b) &&
      changes (.setKeyGb 0 0 0 0 0 1) (fun r => r.keyScale.b)) &&
    (changes (.setConvert 1 0 0 0 0 0) Regs.k0 && changes (.setConvert 0 1 0 0 0 0) Regs.k1 &&
      changes (.setConvert 0 0 1 0 0 0) Regs.k2 && changes (.setConvert 0 0 0 1 0 0) Regs.k3 &&
      changes (.setConvert 0 0 0 0 1 0) Regs.k4 && changes (.setConvert 0 0 0 0 0 1) Regs.k5 &&
      changes (.setPrimDepth 1 0) Regs.primZ && changes (.setPrimDepth 0 1) Regs.primDz &&
      changes (.setScissor { empty with xl := 4 } false false) Regs.clip && changes (.setScissor empty true false) Regs.scField &&
      changes (.setScissor empty false true) Regs.scKeepOdd) &&
    (changes (.setColorImage d) Regs.fbFormat && changes (.setColorImage d) Regs.fbSize &&
      changes (.setColorImage d) Regs.fbWidth && changes (.setColorImage d) Regs.fbAddress &&
      changes (.setTextureImage d) Regs.tiFormat && changes (.setTextureImage d) Regs.tiSize &&
      changes (.setTextureImage d) Regs.tiWidth && changes (.setTextureImage d) Regs.tiAddress &&
      changes (.setMaskImage 16) Regs.zbAddress) &&
    (changes (.setTile 3 { Tile.reset.toTileMode with line := 1 }) (fun r => (r.getTile 3).toTileMode) &&
      changes (.setTileSize 3 { sl := 1, tl := 0, sh := 0, th := 0 }) (fun r => (r.getTile 3).toTileBounds)) = true := by
  decide +kernel

/-- The parameter blocks of three primitives, one for each kind of renderer. -/
def pointBlock : EdgeParams := rectParams .fill { xh := 40, yh := 40, xl := 40, yl := 40 } 0 fillRectAttrs

def triBlock : EdgeParams := triParams edges noShade noTex noDepth

def copyRect : Instr := .texRect { xh := 0, yh := 0, xl := 4, yl := 0 } 0 { s := 0, t := 0, dsdx := 0x1000, dtdy := 0x400 }

def copyBlock : EdgeParams :=
  rectParams .copy { xh := 0, yh := 0, xl := 4, yl := 0 } 0 (texRectAttrs { s := 0, t := 0, dsdx := 0x1000, dtdy := 0x400 })

theorem lt_pixelCount_of_le {j : Nat} {length : Int} (h : (j : Int) ≤ length) : j < pixelCount length := by
  unfold pixelCount
  omega

theorem canDraw_point : canDraw fillState pointBlock := by
  intro n hn _ j hj
  have h : ∀ n < (renderRange (edgeWalk fillState.toCtx pointBlock) pointBlock).2,
      let c := edgeWalk fillState.toCtx pointBlock
      let i := (renderRange c pointBlock).1 + n
      ∀ j < pixelCount (lineLength c.walk.flip (spanAt c.params c.walk i)),
        outOfRange c.params (fbPixelAddr c.regs (fbIndex c.regs (pixelColumn c i j) i)) (pixelBytes c.regs.fbSize) = none := by
    decide +kernel
  exact .inr (h n hn j (lt_pixelCount_of_le hj))

theorem canDraw_triangle : canDraw primState triBlock := by
  intro n hn _
  have h : ∀ n < (renderRange (edgeWalk primState.toCtx triBlock) triBlock).2,
      let c := edgeWalk primState.toCtx triBlock
      let i := (renderRange c triBlock).1 + n
      ∀ j < pixelCount (lineLength c.walk.flip (spanAt c.params c.walk i)),
        outOfRange c.params (fbPixelAddr c.regs (fbIndex c.regs (pixelColumn c i j) i)) (pixelBytes c.regs.fbSize) = none := by
    decide +kernel
  exact ⟨by decide, fun h => (by cases h), fun j hj =>
    ⟨.inr (h n hn j (lt_pixelCount_of_le hj)), fun h => by cases h <;> rename_i h <;> cases h⟩⟩

theorem canDraw_copy : canDraw copyState copyBlock := by
  intro n hn _
  have h : ∀ n < (renderRange (edgeWalk copyState.toCtx copyBlock) copyBlock).2,
      let c := edgeWalk copyState.toCtx copyBlock
      let i := (renderRange c copyBlock).1 + n
      ∀ k < (lineLength c.walk.flip (spanAt c.params c.walk i) * copyBpp c.regs.fbSize + copyBpp c.regs.fbSize).toNat,
        outOfRange c.params ((copySetup c i).fbptr + (if c.walk.flip then (k : Int) else -k)) 1 = none := by
    decide +kernel
  refine ⟨.inr (.inr (.inr (fun n h => ?_))), fun k hk => .inr (h n hn k (by omega))⟩
  rcases h with h | h
  · cases h
  · rw [h]; decide +kernel

theorem witness_RenderingCommandsComplete :
    (edgeParamsOf fillState.regs.om.cycleType point = some pointBlock ∧ canDraw fillState pointBlock ∧
        fillState.pixel.crashed = false) ∧
      (edgeParamsOf primState.regs.om.cycleType (.triFill edges) = some triBlock ∧ canDraw primState triBlock ∧
        primState.pixel.crashed = false) ∧
      (edgeParamsOf copyState.regs.om.cycleType copyRect = some copyBlock ∧ canDraw copyState copyBlock ∧
        copyState.pixel.crashed = false) ∧
      ∀ i ∈ [Instr.triFill edges, .triFillZ edges .zero, .triTex edges walkS, .triTexZ edges walkS .zero, .triShade edges white,
          .triShadeZ edges white .zero, .triShadeTex edges white walkS, .triShadeTexZ edges white walkS .zero] ++
          [.texRect { xh := 0, yh := 0, xl := 8, yl := 4 } 0 { s := 0, t := 0, dsdx := 0, dtdy := 0 },
          .texRectFlip { xh := 0, yh := 0, xl := 8, yl := 4 } 0 { s := 0, t := 0, dsdx := 0, dtdy := 0 }, point],
        (edgeParamsOf .oneCycle i).isSome = true :=
  ⟨⟨rfl, canDraw_point, rfl⟩, ⟨rfl, canDraw_triangle, rfl⟩, ⟨rfl, canDraw_copy, rfl⟩, by decide +kernel⟩

theorem witness_RenderingFaultsAreNamed :
    isRendering point = true ∧
      exec point (fillState.setRegs { fillState.regs with fbAddress := 0x900000 }) = .fault (.outOfRange 0x900294) ∧
      exec (.texRect { xh := 0, yh := 0, xl := 4, yl := 0 } 1 { s := 0, t := 0, dsdx := 0x1000, dtdy := 0x400 }) copyState =
        .fault .copySizeMismatch :=
  ⟨rfl, faultOf_spec (by decide +kernel), faultOf_spec (by decide +kernel)⟩

/-- The two other faults of rendering need a parameter that asks for them. -/
theorem witness_RenderingFaultsAreNamed_optional :
    exec (.texRect { xh := 0, yh := 0, xl := 4, yl := 4 } 0 { s := 0, t := 0, dsdx := 0x400, dtdy := 0x400 })
        { texState regs0.om with params := { Params.default with unknownTexel := .fault },
                                 regs := (texState regs0.om).regs.setTile 0 { Tile.reset with format := 7 } } =
        .fault .texelFormat ∧
      exec (.fillRect { xh := 0, yh := 0, xl := 8, yl := 8 })
        { primState with params := { Params.default with fb4Mode := .fault }, regs := { regs0 with fbSize := .b4 } } =
        .fault .fourBitColourImage :=
  ⟨faultOf_spec (by decide +kernel), faultOf_spec (by decide +kernel)⟩

theorem witness_RenderingStoresOnlyItsPixels :
    Memory.wf fillState.pixel.host = true ∧ (∃ t, exec point fillState = .next t ∧ true = true) ∧
      ∃ P, edgeParamsOf fillState.regs.om.cycleType point = some P ∧
        ¬primitiveStores (edgeWalk fillState.toCtx P) P (2 * 0) ∧ ¬primitiveStores (edgeWalk fillState.toCtx P) P (2 * 0 + 1) := by
  have h : ∀ a < 2, ∀ n < (renderRange (edgeWalk fillState.toCtx pointBlock) pointBlock).2,
      let c := edgeWalk fillState.toCtx pointBlock
      let i := (renderRange c pointBlock).1 + n
      ∀ j < pixelCount (lineLength c.walk.flip (spanAt c.params c.walk i)), ∀ k < pixelBytes c.regs.fbSize,
        a ≠ maskAddr c.params (fbPixelAddr c.regs (fbIndex c.regs (pixelColumn c i j) i) + k) := by decide +kernel
  have h' : ∀ a < 2, ¬primitiveStores (edgeWalk fillState.toCtx pointBlock) pointBlock a := by
    rintro a ha ⟨n, hn, -, j, k, hj, hk, hx⟩
    exact h a ha n hn j (lt_pixelCount_of_le hj) k hk hx
  exact ⟨rfl, after_spec (f := fun _ => true) (by decide +kernel), pointBlock, rfl, h' _ (by decide), h' _ (by decide)⟩

theorem witness_EmptyRangeDrawsNothing :
    State.reset.Inv ∧ State.reset.regs.clip = { xh := 0, yh := 0, xl := 0, yl := 0 } ∧
      ∃ P, edgeParamsOf State.reset.regs.om.cycleType point = some P ∧
        (yRange State.reset.regs P).yllimit ≤ (yRange State.reset.regs P).yhlimit ∧
        ∃ t, exec point State.reset = .next t ∧ true = true :=
  ⟨by unfold State.Inv; decide +kernel, rfl, _, rfl, by decide +kernel, after_spec (f := fun _ => true) (by decide +kernel)⟩

/-- The rectangle from the clip's first sub-row to its right edge, a fill of one scanline. -/
def edgeRect : Rect := { xh := 0, yh := 0, xl := 128, yl := 0 }

theorem witness_FillRectFillsExactly :
    fillState.Inv ∧ fillState.regs.om.cycleType = .fill ∧ fillState.regs.fbSize = .b16 ∧ fillState.pixel.crashed = false ∧
      fillState.params.fillKillMode = .standard ∧ fillState.regs.om.imageReadEn = false ∧
      fillState.regs.om.zCompareEn = false ∧ fillState.regs.om.zUpdateEn = false ∧ fillState.params.oobMode = .fault ∧
      fillState.params.addrMask % 4 = 3 ∧ 1024 ≤ fillState.params.maxScanlines ∧
      (fillState.regs.clip.xh.toNat ≤ edgeRect.xh.toNat ∧ edgeRect.xh.toNat ≤ edgeRect.xl.toNat ∧
        edgeRect.xl.toNat ≤ fillState.regs.clip.xl.toNat ∧ edgeRect.xh.toNat < fillState.regs.clip.xl.toNat ∧
        fillState.regs.clip.yh.toNat ≤ edgeRect.yh.toNat ∧ edgeRect.yh.toNat < edgeRect.yl.toNat / 4 * 4 + 3 ∧
        edgeRect.yl.toNat / 4 * 4 + 3 < fillState.regs.clip.yl.toNat) ∧
      ∃ t, exec (.fillRect edgeRect) fillState = .next t ∧ (pixelAt t 32 0 == (0xF801, 3)) = true :=
  ⟨by unfold State.Inv; decide +kernel, rfl, rfl, rfl, rfl, rfl, rfl, rfl, rfl, by decide, by decide, by decide +kernel,
    after_spec (f := fun t => pixelAt t 32 0 == (0xF801, 3)) (by decide +kernel)⟩

/-- Interlaced drawing that keeps odd rows. -/
def oddRows : State := fillState.setRegs { fillState.regs with scField := true, scKeepOdd := true }

/-- The skipped rows of a field keep their bytes: rows 10 and 12 of a rectangle of rows 10 to 12. -/
theorem witness_FillRectFillsExactly_fields :
    oddRows.Inv ∧ oddRows.regs.scField = true ∧
      ∃ t, exec (.fillRect { xh := 40, yh := 40, xl := 40, yl := 48 }) oddRows = .next t ∧
        (pixelAt t 10 10 == (0, 0) && pixelAt t 10 11 == (0xF801, 3) && pixelAt t 10 12 == (0, 0)) = true :=
  ⟨by unfold State.Inv; decide +kernel, rfl,
    after_spec (f := fun t => pixelAt t 10 10 == (0, 0) && pixelAt t 10 11 == (0xF801, 3) && pixelAt t 10 12 == (0, 0))
      (by decide +kernel)⟩

/-- A fragment with full coverage at pixel (1, 1). -/
def fragment : Fragment :=
  { x := 1, y := 1, sz := 0x8000, dzpix := 1, cvbit := true,
    q := { color := { r := 255, g := 0, b := 0, a := 255 }, cvg := 8, acalpha := 255 }, shadeA := 0, cdith := 7 }

theorem witness_TwoCycleKeepsItsMemoryColour :
    (∃ fb, fbRead primState.toCtx primState.pixel.host (fbIndex primState.regs fragment.x fragment.y) = .ok fb) ∧
      ∃ q, finish2 primState.toCtx primState.pixel fragment = .ok q :=
  ⟨exists_ok (by decide +kernel), exists_ok (by decide +kernel)⟩

theorem witness_LoadsComplete :
    loadState.regs.tiSize ≠ .b4 ∧ (loadState.regs.getTile 0).format ≠ 1 ∧ loadState.regs.tiSize = .b16 ∧
      (∀ row < texelCount 0 4, ∀ i < texelCount 0 12,
        outOfRange loadState.params (texAddr loadState.regs (0 + i) (0 + row)) (texelBytes loadState.regs.tiSize) = none) ∧
      (∀ i < 17 + 1 - 0, outOfRange loadState.params (texAddr loadState.regs (0 + i) 0) (texelBytes loadState.regs.tiSize) = none) ∧
      ∀ i < texelCount 0 12, outOfRange loadState.params (texAddr loadState.regs (0 + i) 0) 2 = none := by decide +kernel

theorem witness_UnspecifiedLoadsFault :
    State.reset.regs.tiSize = .b4 ∧
      ((loadState.regs.setTile 2 { Tile.reset with format := 1 }).getTile 2).format = 1 ∧
      { loadState.regs with tiSize := .b32 }.tiSize ≠ .b16 := by decide

theorem witness_LoadTlutWritesFourLanes :
    tmemInv loadState.tmem = true ∧
      4 * (loadState.regs.getTile 7).tmem.toNat + 4 * texelCount 0 1023 = 2048 ∧
      (∃ t, exec (.loadTlut 7 { sl := 0, tl := 0, sh := 1023, th := 0 }) loadState = .next t ∧ true = true) ∧
      255 < texelCount 0 1023 ∧ (1023 : Nat) < 4 * (loadState.regs.getTile 7).tmem.toNat :=
  ⟨rfl, by decide, after_spec (f := fun _ => true) (by decide +kernel), by decide, by decide⟩

/-- The load state with another size of texel, its tile 0 of one line. -/
def loadSized (size : PixSize) : State :=
  loadState.setRegs ({ loadState.regs with tiSize := size }.setTile 0 { Tile.reset with line := 1 })

/-- A load of the two texels from (3, 0) on, and of the two below, in each size. -/
def twoByTwo : TileBounds := { sl := 12, tl := 0, sh := 16, th := 4 }

theorem witness_LoadTileLandsWhereTexelsAreRead :
    (tmemInv loadState.tmem = true ∧ loadState.regs.tiSize = .b16 ∧
      (∃ t, exec (.loadTile 0 { sl := 0, tl := 0, sh := 124, th := 4 }) loadState = .next t ∧ true = true) ∧
      texelCount 0 124 = 4 * (loadState.regs.getTile 0).line.toNat ∧ texelCount 0 4 ≤ 256 ∧
      4 * (loadState.regs.getTile 0).tmem.toNat + 4 * (loadState.regs.getTile 0).line.toNat * texelCount 0 4 ≤ 2048 ∧
      1 < texelCount 0 4 ∧ 31 < texelCount 0 124) ∧
    (∀ size ∈ [PixSize.b8, .b32], ∃ t, exec (.loadTile 0 twoByTwo) (loadSized size) = .next t ∧ true = true) ∧
      texelCount twoByTwo.sl twoByTwo.sh ≤ 4 * ((loadSized .b32).regs.getTile 0).line.toNat ∧
      texelCount twoByTwo.sl twoByTwo.sh ≤ 8 * ((loadSized .b8).regs.getTile 0).line.toNat ∧
      texelCount twoByTwo.tl twoByTwo.th = 2 ∧ 1 < texelCount twoByTwo.sl twoByTwo.sh ∧
      4 * 0 + 4 * ((loadSized .b32).regs.getTile 0).line.toNat * 2 ≤ 1024 := by
  refine ⟨⟨rfl, rfl, after_spec (f := fun _ => true) (by decide +kernel), by decide, by decide, by decide, by decide, by decide⟩,
    fun size hs => ?_, by decide, by decide, by decide, by decide, by decide⟩
  have h : ∀ size ∈ [PixSize.b8, .b32], after (.loadTile 0 twoByTwo) (loadSized size) (fun _ => true) = true := by decide +kernel
  exact after_spec (h size hs)

/-- Places where no texel of such a load lands, next to one that does, in each size. -/
theorem witness_LoadTileLandsWhereTexelsAreRead_frame :
    let cols := texelCount twoByTwo.sl twoByTwo.sh
    let rows := texelCount twoByTwo.tl twoByTwo.th
    rows ≤ 256 ∧ loadState.regs.tiSize = .b16 ∧
      (∀ row < rows, ∀ i < cols, 2 ≠ texelByte8 ((loadSized .b8).regs.getTile 0) i row) ∧
      (∀ row < rows, ∀ i < cols, 33 ≠ texelHalf16 (loadState.regs.getTile 0) i row) ∧
      (∀ row < rows, ∀ i < cols, 1026 % 1024 ≠ texelHalf32 ((loadSized .b32).regs.getTile 0) i row) ∧
      ∃ t, exec (.loadTile 0 twoByTwo) loadState = .next t ∧ true = true :=
  ⟨by decide, rfl, by decide +kernel, by decide +kernel, by decide +kernel, after_spec (f := fun _ => true) (by decide +kernel)⟩

/-- R505, R206: a 32-bit texel, here the word 0x00001234 at 0x200020, lands as its high halfword in TMEM's low half and its low one
in the high half. -/
theorem test_loadTile32 :
    after (.loadTile 0 { sl := 0, tl := 0, sh := 0, th := 0 })
      ((loadSized .b32).setRegs { (loadSized .b32).regs with tiAddress := 0x200022 })
      (fun t => tmemRead16 t.tmem 0 == 0 && tmemRead16 t.tmem 0x400 == 0x1234) = true := by
  decide +kernel

theorem witness_LoadBlockLandsInOneRun :
    tmemInv loadState.tmem = true ∧ loadState.regs.tiSize = .b16 ∧
      (∀ size ∈ [PixSize.b8, .b16, .b32], ∃ t, exec (.loadBlock 0 0 0 17 0x200) (loadSized size) = .next t ∧ true = true) ∧
      8 * ((loadSized .b32).regs.getTile 0).tmem.toNat + 2 * (17 + 1 - 0) ≤ 2048 ∧ 17 < 17 + 1 - 0 ∧
      (17 * 2 / 8 * 0x200 / 2048 % 2 = 1 ∧ 15 * 2 / 8 * 0x200 / 2048 % 2 = 0) ∧ (17 + 1 - 0 + 3) / 4 * 8 ≤ 2047 ∧
      (∃ t, exec (.loadBlock 7 0 0 2047 0) (loadSized .b8) = .next t ∧ true = true) ∧
      8 * ((loadSized .b8).regs.getTile 7).tmem.toNat + (2047 + 1 - 0) = 4096 := by
  have h : ∀ size ∈ [PixSize.b8, .b16, .b32], after (.loadBlock 0 0 0 17 0x200) (loadSized size) (fun _ => true) = true := by
    decide +kernel
  exact ⟨rfl, rfl, fun size hs => after_spec (h size hs), by decide, by decide, by decide, by decide,
    after_spec (f := fun _ => true) (by decide +kernel), by decide⟩

theorem witness_LoadAndFetchAgreeOnPlace : (255 : Nat) < 256 := by decide

theorem witness_EveryStepKeepsTheInvariant :
    (primState.setCmds [0x3600400400000000]).Inv ∧ ∃ t, step (primState.setCmds [0x3600400400000000]) = .next t :=
  ⟨by unfold State.Inv; decide +kernel, ⟨_, rfl⟩⟩

theorem witness_MemoryReadsWhatWasWritten :
    ∀ n ∈ ([1, 2, 4] : List Nat), Memory.wf (zeroMem []) = true ∧ Params.default.addrMask % 4 = 3 ∧
      256 ^ n - 1 < 256 ^ n ∧ outOfRange Params.default ((0x800000 - n : Nat) : Int) n = none ∧
      ∃ m, memWrite Params.default (zeroMem []) ((0x800000 - n : Nat) : Int) n (256 ^ n - 1) = .ok m := by
  have h : ∀ n ∈ ([1, 2, 4] : List Nat), Memory.wf (zeroMem []) = true ∧ Params.default.addrMask % 4 = 3 ∧
      256 ^ n - 1 < 256 ^ n ∧ outOfRange Params.default ((0x800000 - n : Nat) : Int) n = none ∧
      (memWrite Params.default (zeroMem []) ((0x800000 - n : Nat) : Int) n (256 ^ n - 1)).isOk = true := by
    decide +kernel
  intro n hn
  obtain ⟨h1, h2, h3, h4, h5⟩ := h n hn
  exact ⟨h1, h2, h3, h4, exists_ok h5⟩

theorem witness_OutOfRangeAccesses :
    (∀ n ∈ [1, 2, 4], ∃ i < n, Params.default.rdramSize ≤ maskAddr Params.default ((0x800001 - n : Nat) + (i : Nat) : Int)) ∧
      Params.default.oobMode = .fault ∧ { Params.default with oobMode := .ignore }.oobMode = .ignore := by
  have h : ∀ n ∈ [1, 2, 4], ∃ i < n, Params.default.rdramSize ≤ maskAddr Params.default ((0x800001 - n : Nat) + (i : Nat) : Int) := by
    decide +kernel
  exact ⟨h, rfl, rfl⟩

/-- R209: a word write across an RDRAM_SIZE of 6 leaves the hidden field of its half in range, too. -/
theorem test_ignoreDropsHidden :
    let P := { Params.default with oobMode := .ignore, rdramSize := 6 }
    writePair32 P (zeroMem []) 4 0x10001 3 3 = .ok (zeroMem []) ∧
      writePair16 P (zeroMem []) 4 1 3 = .ok { mem := [(5, 1)], hid := [(2, 3)], init := .zeros } := by
  exact ⟨rfl, rfl⟩

/-- R1205: reset leaves host memory unconstrained; what the host stores, a hidden field too, reads back. -/
theorem test_resetMemory :
    State.reset.pixel.host.byte 5 = freeByte 5 ∧ State.reset.pixel.host.hidden 5 = freeHidden 5 ∧
      (State.reset.hostPoke 5 0).pixel.host.byte 5 = 0 ∧ (State.reset.hostPokeHidden 5 3).pixel.host.hidden 5 = 3 ∧
      (State.reset.hostPoke 10 0xFF).pixel.host.hidden 5 = freeHidden 5 :=
  ⟨rfl, rfl, rfl, rfl, rfl⟩

theorem witness_DepthEntryReadsBack :
    Memory.wf primState.pixel.host = true ∧ primState.params.addrMask % 2 = 1 ∧ 15 < 16 ∧
      outOfRange primState.params (zbAddr primState.regs 5) 2 = none ∧
      ∃ m, zStore primState.toCtx primState.pixel.host 5 0x3FFFF 15 = .ok m :=
  ⟨by decide, by decide, by decide, by decide +kernel, exists_ok (by decide +kernel)⟩

/-- Image read on, and a 32-bit image. -/
def readState : State := primState.setRegs { regs0 with om := { regs0.om with imageReadEn := true } }

def read32 : State := primState.setRegs { regs0 with om := { regs0.om with imageReadEn := true }, fbSize := .b32 }

theorem witness_FramebufferReadsBack :
    Memory.wf readState.pixel.host = true ∧ readState.params.addrMask % 4 = 3 ∧ 255 < 256 ∧ 7 < 8 ∧
      readState.regs.om.imageReadEn = true ∧ readState.regs.fbSize = .b16 ∧ readState.regs.fbFormat = 0 ∧
      read32.regs.om.imageReadEn = true ∧ read32.regs.fbSize = .b32 ∧
      outOfRange readState.params (fbPixelAddr readState.regs 5) (pixelBytes readState.regs.fbSize) = none ∧
      outOfRange read32.params (fbPixelAddr read32.regs 5) (pixelBytes read32.regs.fbSize) = none ∧
      (∃ m, fbStore readState.toCtx readState.pixel.host 5 { r := 255, g := 0, b := 255 } 7 = .ok m) ∧
      ∃ m, fbStore read32.toCtx read32.pixel.host 5 { r := 255, g := 0, b := 255 } 7 = .ok m :=
  ⟨by decide, by decide, by decide, by decide, rfl, rfl, rfl, rfl, rfl, by decide +kernel, by decide +kernel,
    exists_ok (by decide +kernel), exists_ok (by decide +kernel)⟩

theorem witness_DepthRoundTrip : 0x3FFFF < 0x40000 := by decide

theorem witness_DepthCompareCorners :
    0x3FFFF < 0x40000 ∧ OtherModes.reset.zMode = .opaqueZ ∧
      { OtherModes.reset with zMode := .transparent }.zMode = .transparent ∧
      { OtherModes.reset with zMode := .decal }.zMode = .decal ∧ (zTest OtherModes.reset 0 0 0 128 1 0 4 3).pass = true := by
  decide +kernel

/-- The depth compare on. -/
def depthState : State := primState.setRegs { regs0 with om := { regs0.om with zCompareEn := true } }

theorem witness_DepthCompareKeepsTheSlopeCode :
    (primState.regs.om.zCompareEn = false ∧ ∃ r, zCompare primState.toCtx primState.pixel 5 0x8000 1 0 8 7 = .ok r) ∧
      depthState.regs.om.zCompareEn = true ∧ ∃ r, zCompare depthState.toCtx depthState.pixel 5 0x8000 1 0 8 7 = .ok r :=
  ⟨⟨rfl, exists_ok (by decide +kernel)⟩, rfl, exists_ok (by decide +kernel)⟩

theorem witness_CoverageLookup : 255 < 256 ∧ Params.default.cvarray = .standard := by decide

theorem witness_WholePixelSpansAreFullyCovered :
    cvgInv [(1023, 0x5A)] = true ∧ 0 < 1023 ∧ 1023 < 1024 ∧ (0 ≤ 1022 ∧ 1022 < 1023) := by decide

theorem witness_RgbDitherRoundsUp : 255 < 256 := by decide

theorem witness_NoiseSources : Params.default.noise = .draw ∧ { Params.default with noise := .lcg }.noise = .lcg := by decide

theorem witness_ClampTables : 511 < 512 := by decide

theorem witness_IdentityCombine :
    let c := { primState.toCtx with regs := { regs0 with cc := passInput 1 } }
    c.regs.om.keyEn = false ∧ 8 ≤ c.regs.cc.c1.subArgb.toNat ∧ 8 ≤ c.regs.cc.c1.subBrgb.toNat ∧
      16 ≤ c.regs.cc.c1.mulRgb.toNat ∧ c.regs.cc.c1.addRgb = 1 ∧
      (combineInputs c.regs 0 { r := 255, g := 0, b := 255, a := 0 } noTexel { r := 0, g := 0, b := 0, a := 0 } 0).texel0.r < 256 := by
  decide

/-- The control of a fragment without coverage, and of one with full coverage and no blending. -/
def noCover : BlendCtl :=
  { blendEn := false, prewrap := false, cvg := 0, cvbit := false, shifts := { a := 0, b := 0, pastA := 0, pastB := 0 } }

def fullCover : BlendCtl := { noCover with cvg := 8, cvbit := true }

theorem witness_BlenderGates :
    (({ primState.regs.om with antialiasEn := true }.antialiasEn = true ∧ noCover.cvg = 0) ∧
        primState.regs.om.antialiasEn = false ∧ noCover.cvbit = false) ∧
      primState.regs.om.alphaCompareEn = false ∧ primState.regs.om.colorOnCvg = false ∧ fullCover.blendEn = false ∧
      primState.regs.om.rgbDitherSel = .none ∧ fullCover.cvg ≠ 0 ∧ fullCover.cvbit = true ∧
      primState.regs.om.blend0.m1a = 0 := by decide

theorem witness_WrapStaysInTheMask :
    let x : TileAxis := { clamp := false, mirror := true, mask := 15, shift := 0, lo := 0, hi := 0 }
    x.mask ≠ 0 ∧ x.mirror = true ∧ (1024 : Int) / 2 ^ min x.mask 10 % 2 = 1 ∧
      (2048 : Int) / 2 ^ min x.mask 10 % 2 = 0 ∧ { x with mirror := false }.mirror = false := by
  decide

theorem witness_UnknownTexelsAreFree :
    primState.regs.om.enTlut = false ∧ primState.params.unknownTexel = .draw ∧
      5 ≤ ({ Tile.reset with format := 5 } : Tile).format.toNat ∧
      ∀ p ∈ [((0 : BitVec 3), PixSize.b4), (1, .b32)],
        let tl : Tile := { Tile.reset with format := p.1, size := p.2 }
        (tl.format.toNat, tl.size) ∈ [(0, PixSize.b4), (0, .b8), (2, .b16), (2, .b32), (3, .b32), (4, .b16), (4, .b32),
          (1, .b4), (1, .b8), (1, .b32)] := by decide

end Sys2Proof.Tests
end

section
/-! The step and the registers, for every command: the step taken apart into fetch and `exec`, what every command leaves of the
state, and the registers after it as one function of the registers before. The statements on the invariant, the cursor, the
memories and the registers' writers (10_state.md) are read off these. -/

namespace Sys2Proof.Machine

open Sys2Proof.Config

/-! ## The step (R301) -/

/-- A step that answers has decoded the words at the cursor, enough of them, and run the command with the cursor behind them. -/
theorem step_next {s t : State} (h : step s = .next t) :
    ∃ w rest, s.cmds.drop s.cmdIndex = w :: rest ∧ cmdLen (opcode w) ≤ rest.length + 1 ∧
      exec (decodeCmd (w :: rest)) (s.setCmdIndex (s.cmdIndex + cmdLen (opcode w))) = .next t := by
  unfold step State.fetch at h
  cases hd : s.cmds.drop s.cmdIndex with
  | nil => simp [hd, decode] at h
  | cons w rest =>
    by_cases hlen : rest.length + 1 < cmdLen (opcode w)
    · simp [hd, decode, hlen] at h
    · exact ⟨w, rest, rfl, by omega, by simpa [hd, decode, hlen] using h⟩

/-- The word at the cursor, and that the words of a command that fits end within the command sequence. -/
theorem cursor_of_drop {ws rest : List Word64} {k : Nat} {w : Word64} (h : ws.drop k = w :: rest) :
    ws[k]? = some w ∧ k + (rest.length + 1) = ws.length := by
  have hget : (ws.drop k)[0]? = ws[k]? := by simp
  have hlen : (ws.drop k).length = ws.length - k := List.length_drop
  simp only [h, List.getElem?_cons_zero, List.length_cons] at hget hlen
  exact ⟨hget.symm, by omega⟩

/-! ## What every command leaves -/

/-- A rendering command leaves the registers and TMEM (R600, R1106). -/
theorem runPrimitive_frame {P : EdgeParams} {s t : State} (h : runPrimitive P s = .next t) :
    t.params = s.params ∧ t.regs = s.regs ∧ t.tmem = s.tmem ∧ t.cmds = s.cmds ∧ t.cmdIndex = s.cmdIndex := by
  rcases runPrimitive_next h with ⟨-, rfl⟩ | ⟨-, p, -, rfl⟩ <;> exact ⟨rfl, rfl, rfl, rfl, rfl⟩

/-- No command writes the parameters, the command words or the cursor (R103, R1120). -/
theorem exec_frame {i : Instr} {s t : State} (h : exec i s = .next t) :
    t.params = s.params ∧ t.cmds = s.cmds ∧ t.cmdIndex = s.cmdIndex := by
  rcases exec_cases h with ⟨P, -, -, -, hrun⟩ | ⟨-, -, n, b, m, -, rfl, -⟩ | ⟨-, -, r, p, rfl, -⟩
  · obtain ⟨hparams, -, -, hcmds, hcursor⟩ := runPrimitive_frame hrun
    exact ⟨hparams, hcmds, hcursor⟩
  · exact ⟨rfl, rfl, rfl⟩
  · exact ⟨rfl, rfl, rfl⟩

/-- A control command's effect on the pixel part leaves host memory and the coverage buffer. -/
theorem ControlPixel.frame {P : Params} {p q : Pixel} (h : ControlPixel P p q) :
    q.host = p.host ∧ q.cvgbuf = p.cvgbuf := by
  cases h <;> exact ⟨rfl, rfl⟩

/-! ## The registers after a command -/

/-- The registers a command that answers leaves (40_control.md; R500 to R502 for the loads' bounds). -/
def regsAfter (P : Params) (r : Regs) : Instr → Regs
  | .setOtherModes m => { r with om := m }
  | .setCombine m => { r with cc := m }
  | .setFogColor c => { r with fogColor := c }
  | .setBlendColor c => { r with blendColor := c }
  | .setPrimColor l f c => { r with primLodMin := l, primLodFrac := f, primColor := c }
  | .setEnvColor c => { r with envColor := c }
  | .setFillColor c => { r with fillColor := c }
  | .setKeyR w c k =>
    { r with keyWidth := { r.keyWidth with r := w }, keyCenter := { r.keyCenter with r := c },
             keyScale := { r.keyScale with r := k } }
  | .setKeyGb wg wb cg kg cb kb =>
    { r with keyWidth := { r.keyWidth with g := wg, b := wb }, keyCenter := { r.keyCenter with g := cg, b := cb },
             keyScale := { r.keyScale with g := kg, b := kb } }
  | .setConvert k0 k1 k2 k3 k4 k5 => { r with k0 := k0, k1 := k1, k2 := k2, k3 := k3, k4 := k4, k5 := k5 }
  | .setPrimDepth z dz => { r with primZ := z, primDz := dz }
  | .setScissor clip f k => { r with clip := clip, scField := f, scKeepOdd := k }
  | .setColorImage d =>
    { r with fbFormat := d.format, fbSize := d.size, fbWidth := d.width, fbAddress := imageAddress P d.address }
  | .setTextureImage d =>
    { r with tiFormat := d.format, tiSize := d.size, tiWidth := d.width, tiAddress := imageAddress P d.address }
  | .setMaskImage a => { r with zbAddress := imageAddress P a }
  | .setTile n m => r.setTile n { r.getTile n with toTileMode := m }
  | .setTileSize n b => r.setBounds n b
  | .loadTile n b => r.setBounds n b
  | .loadTlut n b => r.setBounds n b
  | .loadBlock n sl tl sh dxt => r.setBounds n { sl := sl, tl := tl, sh := sh, th := dxt }
  | _ => r

/-- A load sets the bounds of its tile and no other register (R500 to R502). -/
theorem runLoad_regs {s t : State} {n : BitVec 3} {b : TileBounds} {bad : Bool}
    {copy : Tile → List Host.Cell → Except Fault (List Host.Cell)} (h : runLoad s n b bad copy = .next t) :
    t.regs = s.regs.setBounds n b := by
  obtain ⟨-, m, -, rfl⟩ := runLoad_next h
  rfl

/-- Every command leaves the registers that `regsAfter` says. -/
theorem exec_regs {i : Instr} {s t : State} (h : exec i s = .next t) : t.regs = regsAfter s.params s.regs i := by
  cases i
  case loadTile | loadTlut | loadBlock =>
    simp only [exec, execLoadTile, execLoadTlut, execLoadBlock] at h
    exact runLoad_regs h
  case triFill | triFillZ | triTex | triTexZ | triShade | triShadeZ | triShadeTex | triShadeTexZ | texRect | texRectFlip |
      fillRect =>
    obtain ⟨-, hregs, -⟩ := runPrimitive_frame h
    exact hregs
  all_goals
    cases h
    rfl

/-! ## The registers of a tile after a command -/

theorem Regs.getTile_setTile (r : Regs) (n k : BitVec 3) (x : Tile) :
    (r.setTile n x).getTile k = if k = n then x else r.getTile k := by
  split
  next h => rw [h, Regs.getTile_setTile_same]
  next h => exact Regs.getTile_setTile_ne r n k x h

/-- Setting a tile's bounds leaves every tile's mode fields (R426). -/
@[simp] theorem Regs.getTile_setBounds_toTileMode (r : Regs) (n k : BitVec 3) (b : TileBounds) :
    ((r.setBounds n b).getTile k).toTileMode = (r.getTile k).toTileMode := by
  rw [Regs.setBounds, Regs.getTile_setTile]
  split
  next h => rw [h]
  next => rfl

/-- Setting a tile's bounds changes no other tile (R426). -/
theorem Regs.eq_of_setBounds_ne {r : Regs} {n k : BitVec 3} {b : TileBounds}
    (h : ((r.setBounds n b).getTile k).toTileBounds ≠ (r.getTile k).toTileBounds) : k = n := by
  by_contra hne
  exact h (congrArg Tile.toTileBounds (Regs.getTile_setTile_ne r n k _ hne))

/-- A tile's mode fields are written by SET_TILE of that tile alone (R425). -/
theorem regsAfter_toTileMode {P : Params} {r : Regs} {i : Instr} {k : BitVec 3}
    (h : ((regsAfter P r i).getTile k).toTileMode ≠ (r.getTile k).toTileMode) : ∃ m, i = .setTile k m := by
  cases i
  case setTile n m =>
    by_cases hk : k = n
    · exact ⟨m, by rw [hk]⟩
    · exact absurd (congrArg Tile.toTileMode (Regs.getTile_setTile_ne r n k _ hk)) h
  case setTileSize | loadTile | loadTlut | loadBlock => exact absurd (Regs.getTile_setBounds_toTileMode r _ k _) h
  all_goals exact absurd rfl h

/-- A tile's bounds are written by SET_TILE_SIZE and the three loads of that tile alone (R426, R500 to R502). -/
theorem regsAfter_toTileBounds {P : Params} {r : Regs} {i : Instr} {k : BitVec 3}
    (h : ((regsAfter P r i).getTile k).toTileBounds ≠ (r.getTile k).toTileBounds) :
    (∃ b, i = .setTileSize k b) ∨ (∃ b, i = .loadTile k b) ∨ (∃ b, i = .loadTlut k b) ∨
      ∃ sl tl sh dxt, i = .loadBlock k sl tl sh dxt := by
  cases i
  case setTileSize n b => exact .inl ⟨b, by rw [Regs.eq_of_setBounds_ne h]⟩
  case loadTile n b => exact .inr (.inl ⟨b, by rw [Regs.eq_of_setBounds_ne h]⟩)
  case loadTlut n b => exact .inr (.inr (.inl ⟨b, by rw [Regs.eq_of_setBounds_ne h]⟩))
  case loadBlock n sl tl sh dxt => exact .inr (.inr (.inr ⟨sl, tl, sh, dxt, by rw [Regs.eq_of_setBounds_ne h]⟩))
  case setTile n m =>
    refine absurd ?_ h
    rw [regsAfter, Regs.getTile_setTile]
    split
    next hk => rw [hk]
    next => rfl
  all_goals exact absurd rfl h

/-! ## The image registers stay in range (R113 to R115) -/

theorem regsInv_iff {P : Params} {r : Regs} :
    regsInv P r = true ↔
      widthInv r.fbWidth = true ∧ widthInv r.tiWidth = true ∧ addrInv P r.fbAddress = true ∧
        addrInv P r.tiAddress = true ∧ addrInv P r.zbAddress = true := by
  simp [regsInv, and_assoc]

/-- An address reduced by ADDR_MASK stays the same when it is reduced again (R422 to R424). -/
theorem addrInv_imageAddress (P : Params) (a : BitVec 26) : addrInv P (imageAddress P a) = true := by
  have hlt : a.toNat &&& P.addrMask < 2 ^ 26 := lt_of_le_of_lt Nat.and_le_left a.isLt
  have hval : (imageAddress P a).toNat = a.toNat &&& P.addrMask := Nat.mod_eq_of_lt hlt
  rw [addrInv, beq_iff_eq]
  apply BitVec.eq_of_toNat_eq
  calc (imageAddress P (imageAddress P a)).toNat
      = ((imageAddress P a).toNat &&& P.addrMask) % 2 ^ 26 := rfl
    _ = (a.toNat &&& P.addrMask) % 2 ^ 26 := by rw [hval, Nat.and_assoc, Nat.and_self]
    _ = (imageAddress P a).toNat := rfl

/-- The decoder reads a width of 1 to 1024 (R313). -/
theorem decodeImage_widthOk (w : Word64) : (decodeImage w).widthOk = true := by
  have hlt : (field w 32 10).toNat < 1024 := (field w 32 10).isLt
  have hwidth : (decodeImage w).width.toNat = (field w 32 10).toNat + 1 := by
    simp only [decodeImage]
    bv_omega
  simp only [ImageDesc.widthOk, hwidth, Bool.and_eq_true, decide_eq_true_eq]
  omega

/-- Every decoded command is well formed (R306, R313). -/
theorem decodeCmd_wf (ws : List Word64) : (decodeCmd ws).wf = true := by
  simp only [decodeCmd]
  split
  -- The two commands with a width: SET_TEXTURE_IMAGE and SET_COLOR_IMAGE.
  case h_62 | h_64 => exact decodeImage_widthOk _
  all_goals rfl

/-- A well-formed command keeps the image registers in range. -/
theorem regsAfter_inv {P : Params} {r : Regs} {i : Instr} (hwf : i.wf = true) (h : regsInv P r = true) :
    regsInv P (regsAfter P r i) = true := by
  obtain ⟨hfbw, htiw, hfba, htia, hzba⟩ := regsInv_iff.1 h
  cases i
  case setColorImage d => exact regsInv_iff.2 ⟨hwf, htiw, addrInv_imageAddress P d.address, htia, hzba⟩
  case setTextureImage d => exact regsInv_iff.2 ⟨hfbw, hwf, hfba, addrInv_imageAddress P d.address, hzba⟩
  case setMaskImage a => exact regsInv_iff.2 ⟨hfbw, htiw, hfba, htia, addrInv_imageAddress P a⟩
  all_goals exact h

/-! ## The invariant -/

/-- A well-formed command keeps the invariant of the machine. -/
theorem exec_inv {i : Instr} {s t : State} (hwf : i.wf = true) (hs : s.Inv) (h : exec i s = .next t) : t.Inv := by
  have ⟨hhost, htmem, hcvg, hspan, hregs, hcursor⟩ := hs
  have hregs' : regsInv s.params t.regs = true := by
    rw [exec_regs h]
    exact regsAfter_inv hwf hregs
  rcases exec_cases h with ⟨P, -, -, -, hrun⟩ | ⟨-, -, n, b, m, hm, rfl, -⟩ | ⟨-, -, r, p, rfl, hp⟩
  · exact runPrimitive_inv hrun hs
  · exact ⟨hhost, hm htmem, hcvg, hspan, hregs', hcursor⟩
  · obtain ⟨hsame, hsame'⟩ := hp.frame
    exact ⟨hsame ▸ hhost, htmem, hsame' ▸ hcvg, hspan, hregs', hcursor⟩

/-- Moving the cursor within the command sequence keeps the invariant. -/
theorem State.Inv.setCmdIndex {s : State} {n : Nat} (hs : s.Inv) (h : n ≤ s.cmds.length) : (s.setCmdIndex n).Inv := by
  obtain ⟨hhost, htmem, hcvg, hspan, hregs, -⟩ := hs
  exact ⟨hhost, htmem, hcvg, hspan, hregs, h⟩

/-! ## The statements -/

/-- Settles O41: the cursor moves within the words the step has found, and the decoded command, well formed, keeps the rest. -/
theorem everyStepKeepsTheInvariant : Obligations.EveryStepKeepsTheInvariant := by
  unfold Obligations.EveryStepKeepsTheInvariant
  intro s t hs h
  obtain ⟨w, rest, hdrop, hlen, hexec⟩ := step_next h
  obtain ⟨-, hend⟩ := cursor_of_drop hdrop
  exact exec_inv (decodeCmd_wf _) (hs.setCmdIndex (by omega)) hexec

/-- Settles O24: fetch alone moves the cursor, and the command leaves words, parameters and cursor. -/
theorem cursorMovesByCommandLength : Obligations.CursorMovesByCommandLength := by
  unfold Obligations.CursorMovesByCommandLength
  intro s t h
  obtain ⟨w, rest, hdrop, hlen, hexec⟩ := step_next h
  obtain ⟨hword, hend⟩ := cursor_of_drop hdrop
  obtain ⟨hparams, hcmds, hcursor⟩ := exec_frame hexec
  have hmove : t.cmdIndex = s.cmdIndex + cmdLen (opcode w) := hcursor
  exact ⟨hcmds, hparams, w, hword, hmove, by omega⟩

/-- Settles O25: a primitive leaves TMEM, a load leaves the pixel part, a control command leaves both memories. -/
theorem onlyLoadsAndRenderingTouchMemory : Obligations.OnlyLoadsAndRenderingTouchMemory := by
  unfold Obligations.OnlyLoadsAndRenderingTouchMemory
  intro i s t h
  rcases exec_cases h with ⟨P, -, hrender, -, hrun⟩ | ⟨-, hload, n, b, m, -, rfl, -⟩ | ⟨-, -, r, p, rfl, hp⟩
  · obtain ⟨-, -, htmem, -, -⟩ := runPrimitive_frame hrun
    exact ⟨fun hne => absurd htmem hne, fun _ => hrender⟩
  · exact ⟨fun _ => hload, fun hne => absurd rfl hne⟩
  · exact ⟨fun hne => absurd rfl hne, fun hne => absurd hp.frame.1 hne⟩

/-- Settles O26: the registers after a command are `regsAfter`, which is read off for each command. -/
theorem registersHaveTheirWriters : Obligations.RegistersHaveTheirWriters := by
  unfold Obligations.RegistersHaveTheirWriters
  intro i s t h
  rw [exec_regs h]
  refine ⟨?modesAndColours, ?keysDepthAndClip, ?images, fun n => ⟨regsAfter_toTileMode, regsAfter_toTileBounds⟩⟩
  -- The writer of a register is its own witness; after any other command the register is unchanged by definition.
  all_goals cases i <;> simp [regsAfter, Regs.setBounds]

end Sys2Proof.Machine
end

section
/-! Host memory, byte for byte (R203, R205) and by OOB_MODE (R209), and the faults of the rendering commands. The bytes of
an access of up to four bytes are distinct, so that a read of a write's width is the number the write stored. A fault of a
rendering command is traced from the operation that raises it out to the command, each stage by the lemma of the stages it
calls. -/

namespace Sys2Proof.Machine

open Sys2Proof.Config

/-! ## Accesses out of range (R209) -/

/-- An access with a byte at or beyond RDRAM_SIZE is out of range. -/
theorem outOfRange_isSome {P : Params} {a : Int} {n : Nat} (h : ∃ i < n, P.rdramSize ≤ maskAddr P (a + i)) :
    ∃ x, outOfRange P a n = some x := by
  obtain ⟨i, hi, hle⟩ := h
  refine Option.ne_none_iff_exists'.1 (fun hnone => ?_)
  have hlt := outOfRange_eq_none.1 hnone i hi
  omega

/-- The address reported lies from RDRAM_SIZE to ADDR_MASK. -/
theorem outOfRange_bounds {P : Params} {a : Int} {n x : Nat} (h : outOfRange P a n = some x) :
    P.rdramSize ≤ x ∧ x ≤ P.addrMask := by
  refine ⟨by simpa using List.find?_some h, ?_⟩
  obtain ⟨i, -, rfl⟩ := List.mem_map.1 (List.mem_of_find?_eq_some h)
  exact maskAddr_le P _

section
variable {P : Params} {a : Int} {n x : Nat}

theorem memRead_of_fault (hx : outOfRange P a n = some x) (ho : P.oobMode = .fault) (m : HostMem) :
    memRead P m a n = .error (.outOfRange x) := by
  simp only [memRead, hx, ho]

theorem memRead_of_ignore (hx : outOfRange P a n = some x) (ho : P.oobMode = .ignore) (m : HostMem) :
    memRead P m a n = .ok 0 := by
  simp only [memRead, hx, ho]

theorem writeIf_of_fault (hx : outOfRange P a n = some x) (ho : P.oobMode = .fault) (m m' : HostMem) :
    writeIf P m a n m' = .error (.outOfRange x) := by
  simp only [writeIf, hx, ho]

theorem writeIf_of_ignore (hx : outOfRange P a n = some x) (ho : P.oobMode = .ignore) (m m' : HostMem) :
    writeIf P m a n m' = .ok m := by
  simp only [writeIf, hx, ho]

theorem memRead_of_inRange (h : outOfRange P a n = none) (m : HostMem) : memRead P m a n = .ok (readBytes P m a n) := by
  simp only [memRead, h]

theorem memWrite_of_inRange (h : outOfRange P a n = none) (m : HostMem) (v : Nat) :
    memWrite P m a n v = .ok (writeBytes P m a n v) := by
  simp only [memWrite, writeIf, h]

end

/-- Settles O46: every write is a `writeIf` of its access, so one byte out of range decides it, hidden bits included. -/
theorem outOfRangeAccesses : Obligations.OutOfRangeAccesses := by
  unfold Obligations.OutOfRangeAccesses
  intro P m a n v hbyte
  obtain ⟨x, hx⟩ := outOfRange_isSome hbyte
  refine ⟨fun ho => ⟨x, (outOfRange_bounds hx).1, memRead_of_fault hx ho m, writeIf_of_fault hx ho m _, ?_, ?_, ?_⟩,
    fun ho => ⟨memRead_of_ignore hx ho m, writeIf_of_ignore hx ho m _, ?_, ?_, ?_⟩⟩
  · rintro rfl
    exact writeIf_of_fault hx ho m _
  · rintro rfl h
    exact writeIf_of_fault hx ho m _
  · rintro rfl h l
    exact writeIf_of_fault hx ho m _
  · rintro rfl
    exact writeIf_of_ignore hx ho m _
  · rintro rfl h
    exact writeIf_of_ignore hx ho m _
  · rintro rfl h l
    exact writeIf_of_ignore hx ho m _

/-! ## A read of what a write stored (R203, R205) -/

/-- A mask with its low two bits leaves those of a value. -/
theorem iand_mod_four (v : Int) {m : Nat} (h : m % 4 = 3) : ((iand v m : Nat) : Int) % 4 = v % 4 := by
  have hand (b : Nat) : (m &&& b) % 4 = b % 4 := by
    have hmod := Nat.and_mod_two_pow (a := m) (b := b) (n := 2)
    have hlow := Nat.and_two_pow_sub_one_eq_mod (b % 4) 2
    rw [Nat.and_comm] at hlow
    simp only [Nat.reducePow, Nat.add_one_sub_one, h] at hmod hlow
    omega
  cases v with
  | ofNat a =>
    have := hand a
    simp only [iand, Nat.and_comm a m, Int.ofNat_eq_natCast]
    omega
  | negSucc b =>
    have := hand b
    have hle : m &&& b ≤ m := Nat.and_le_left
    simp only [iand, Int.negSucc_eq]
    omega

/-- Bytes of a word that are not the same have different addresses. -/
theorem maskAddr_inj {P : Params} (h : P.addrMask % 4 = 3) {a : Int} {i j : Nat} (hi : i < 4) (hj : j < 4)
    (heq : maskAddr P (a + i) = maskAddr P (a + j)) : i = j := by
  have h1 := iand_mod_four (a + i) h
  have h2 := iand_mod_four (a + j) h
  simp only [maskAddr] at heq
  rw [heq] at h1
  omega

/-- Bytes stored at distinct addresses read back, each the one stored there. -/
theorem HostMem.byte_foldl_setByte {m : HostMem} (hm : Memory.wf m = true) (addr : Nat → Nat) (val : Nat → Byte) :
    ∀ n, (∀ i < n, ∀ j < n, addr i = addr j → i = j) →
      Memory.wf ((List.range n).foldl (fun m i => m.setByte (addr i) (val i)) m) = true ∧
        ∀ i < n, ((List.range n).foldl (fun m i => m.setByte (addr i) (val i)) m).byte (addr i) = val i
  | 0, _ => ⟨hm, fun _ hi => absurd hi (Nat.not_lt_zero _)⟩
  | n + 1, hinj => by
    obtain ⟨hwf, hbyte⟩ := HostMem.byte_foldl_setByte hm addr val n
      (fun i hi j hj => hinj i (by omega) j (by omega))
    simp only [List.range_succ, List.foldl_append, List.foldl_cons, List.foldl_nil]
    refine ⟨HostMem.setByte_wf hwf _ _, fun i hi => ?_⟩
    rw [HostMem.byte_setByte hwf]
    split
    next heq => rw [hinj i hi n (by omega) heq]
    next hne => exact hbyte i (lt_of_le_of_ne (by omega) (fun h => hne (by rw [h])))

/-- Byte `i` of an access of at most four bytes, after a write of it, is the value's byte `i` from the top. -/
theorem writeBytes_byte {P : Params} (hmask : P.addrMask % 4 = 3) {m : HostMem} (hm : Memory.wf m = true) (a : Int) {n : Nat}
    (hn : n ≤ 4) (v : Nat) {i : Nat} (hi : i < n) : (writeBytes P m a n v).byte (maskAddr P (a + i)) = beByte n v i :=
  (HostMem.byte_foldl_setByte hm (fun i : Nat => maskAddr P (a + i)) (beByte n v) n
    (fun _ hi _ hj => maskAddr_inj hmask (by omega) (by omega))).2 i hi

/-- Byte `i` of a value is its digit `i` from the top to base 256. -/
theorem beByte_toNat (n v i : Nat) : (beByte n v i).toNat = v / 256 ^ (n - 1 - i) % 256 := by
  rw [beByte, BitVec.toNat_ofNat, Nat.shiftRight_eq_div_pow, Nat.pow_mul]

/-- The first `k` of a value's `n` digits to base 256 make the value without its low digits. -/
theorem foldl_digits_eq {n v : Nat} (hv : v < 256 ^ n) {b : Nat → Nat} (hb : ∀ i < n, b i = v / 256 ^ (n - 1 - i) % 256) :
    ∀ k ≤ n, (List.range k).foldl (fun acc i => acc * 256 + b i) 0 = v / 256 ^ (n - k)
  | 0, _ => (Nat.div_eq_of_lt hv).symm
  | k + 1, hk => by
    have hdiv : v / 256 ^ (n - k) = v / 256 ^ (n - 1 - k) / 256 := by
      rw [Nat.div_div_eq_div_mul, ← Nat.pow_succ, show n - k = n - 1 - k + 1 by omega]
    rw [List.range_succ, List.foldl_append, List.foldl_cons, List.foldl_nil, foldl_digits_eq hv hb k (by omega),
      hb k (by omega), hdiv, show n - (k + 1) = n - 1 - k by omega]
    exact Nat.div_add_mod' _ _

/-- Settles O45: the bytes of the access are distinct, each holds its digit of the value, and the digits make the value. -/
theorem memoryReadsWhatWasWritten : Obligations.MemoryReadsWhatWasWritten := by
  unfold Obligations.MemoryReadsWhatWasWritten
  intro P m m' a n v hm hn hmask hv hrange hwrite
  rw [memWrite_of_inRange hrange, Except.ok.injEq] at hwrite
  subst hwrite
  have hdigit (i : Nat) (hi : i < n) :
      ((writeBytes P m a n v).byte (maskAddr P (a + i))).toNat = v / 256 ^ (n - 1 - i) % 256 := by
    rw [writeBytes_byte hmask hm a (by omega) v hi, beByte_toNat]
  have hread : readBytes P (writeBytes P m a n v) a n = v := by
    have hall := foldl_digits_eq hv hdigit n le_rfl
    rwa [Nat.sub_self, Nat.pow_zero, Nat.div_one] at hall
  exact ⟨by rw [memRead_of_inRange hrange, hread], hdigit, fun x hx => writeBytes_byte_ne hm a n v x hx,
    writeBytes_hidden P m a n v⟩

/-! ## What an operation can fault with -/

/-- An access faults only with an address from RDRAM_SIZE to ADDR_MASK, under OOB_MODE = fault (R209). -/
def AccessFault (P : Params) (e : Fault) : Prop :=
  ∃ x, e = .outOfRange x ∧ P.oobMode = .fault ∧ P.rdramSize ≤ x ∧ x ≤ P.addrMask

theorem memRead_error {P : Params} {m : HostMem} {a : Int} {n : Nat} {e : Fault} (h : memRead P m a n = .error e) :
    AccessFault P e := by
  rcases memRead_cases P m a n with ⟨-, h'⟩ | ⟨x, hx, ho, h'⟩ | ⟨x, -, -, h'⟩ <;> rw [h] at h' <;> cases h'
  exact ⟨x, rfl, ho, outOfRange_bounds hx⟩

/-- The fault of every host write: MemWrite and the paired writes are a `writeIf` each. -/
theorem writeIf_error {P : Params} {m m' : HostMem} {a : Int} {n : Nat} {e : Fault} (h : writeIf P m a n m' = .error e) :
    AccessFault P e := by
  rcases writeIf_cases P m a n m' with ⟨-, h'⟩ | ⟨x, hx, ho, h'⟩ | ⟨x, -, -, h'⟩ <;> rw [h] at h' <;> cases h'
  exact ⟨x, rfl, ho, outOfRange_bounds hx⟩

/-- What a rendering command can fault with, each fault under the setting that asks for it (R209, R716, R751, R823). -/
inductive RenderingFault (c : Ctx) : Fault → Prop
  | fourBitColourImage (hmode : c.params.fb4Mode = .fault) (hsize : c.regs.fbSize = .b4) :
      RenderingFault c .fourBitColourImage
  | copySizeMismatch (hfetch : c.params.copyFetch = .standard) (hcycle : c.regs.om.cycleType = .copy) :
      RenderingFault c .copySizeMismatch
  | texelFormat (hmode : c.params.unknownTexel = .fault) : RenderingFault c .texelFormat
  | access {e : Fault} (h : AccessFault c.params e) : RenderingFault c e

section
variable {c : Ctx} {p : Pixel} {e : Fault}

/-! ## Texture stages -/

theorem unknownTexel_error {r : Option (Rgba Int)} (h : unknownTexel c.params p r = .error e) : RenderingFault c e := by
  unfold unknownTexel at h
  split at h
  case h_1 => cases h
  case h_2 hmode =>
    cases h
    exact .texelFormat hmode
  case h_3 => split at h <;> cases h

theorem fetchTexel_error {tl : Tile} {s t : Int} {lane : Nat} (h : fetchTexel c p tl s t lane = .error e) :
    RenderingFault c e := by
  unfold fetchTexel at h
  split at h
  · cases h
  · split at h
    · cases h
    · exact unknownTexel_error h
    · exact unknownTexel_error h

theorem fetchQuad_error {tl : Tile} {s0 s1 t0 t1 : Int} (h : fetchQuad c p tl s0 s1 t0 t1 = .error e) :
    RenderingFault c e := by
  unfold fetchQuad at h
  split at h
  next h0 =>
    cases h
    exact fetchTexel_error h0
  split at h
  next h1 =>
    cases h
    exact fetchTexel_error h1
  split at h
  next h2 =>
    cases h
    exact fetchTexel_error h2
  split at h
  next h3 =>
    cases h
    exact fetchTexel_error h3
  cases h

theorem tex_error {q : Nat × Nat} {n : BitVec 3} {cyc : Bool} {prev : Rgba Int} (h : tex c p q n cyc prev = .error e) :
    RenderingFault c e := by
  unfold tex at h
  simp only at h
  split at h
  · split at h
    next hq =>
      cases h
      exact fetchQuad_error hq
    next => cases h
  · split at h
    next hq =>
      cases h
      exact fetchTexel_error hq
    next => cases h

theorem texIf_error {w : Bool} {q : TexPoint} {n : BitVec 3} {cyc : Bool} {prev : Rgba Int}
    (h : texIf w c p q n cyc prev = .error e) : RenderingFault c e := by
  unfold texIf at h
  split at h
  · exact tex_error h
  · cases h

theorem texels1_error {l : LinePos} {j : Int} {acc : TexPoint} (h : texels1 c p l j acc = .error e) :
    RenderingFault c e := by
  unfold texels1 at h
  simp only at h
  split at h
  next h0 =>
    cases h
    exact texIf_error h0
  split at h
  next h1 =>
    cases h
    exact texIf_error h1
  cases h

theorem texels2_error {l : LinePos} {j : Int} {acc : TexPoint} (h : texels2 c p l j acc = .error e) :
    RenderingFault c e := by
  unfold texels2 at h
  simp only at h
  split at h
  next h0 =>
    cases h
    exact texIf_error h0
  split at h
  next h1 =>
    cases h
    exact texIf_error h1
  split at h
  next h2 =>
    cases h
    exact texIf_error h2
  cases h

/-! ## Memory stages -/

theorem fbRead_error {m : HostMem} {n : Int} (h : fbRead c m n = .error e) : AccessFault c.params e := by
  unfold fbRead at h
  simp only at h
  split at h
  · cases h
  all_goals
    split at h
    next => cases h
    next hread =>
      cases h
      exact memRead_error hread

theorem zRead_error {m : HostMem} {n : Int} (h : zRead c m n = .error e) : AccessFault c.params e := by
  unfold zRead at h
  split at h
  next => cases h
  next hread =>
    cases h
    exact memRead_error hread

theorem zCompare_error {n : Int} {sz dz de cv mc : Nat} (h : zCompare c p n sz dz de cv mc = .error e) :
    AccessFault c.params e := by
  unfold zCompare at h
  split at h
  · split at h
    next => cases h
    next hread =>
      cases h
      exact zRead_error hread
  · cases h

theorem fbStore_error {m : HostMem} {n : Int} {v : Rgb Nat} {fc : Nat} (h : fbStore c m n v fc = .error e) :
    RenderingFault c e := by
  unfold fbStore at h
  simp only at h
  split at h
  case h_1 hsize =>
    split at h
    next => exact .access (writeIf_error h)
    next hmode =>
      cases h
      exact .fourBitColourImage hmode hsize
  all_goals exact .access (writeIf_error h)

theorem writePixel_error {f : Fragment} {z : ZResult} {mc : Nat} {v : Option (Rgb Nat)}
    (h : writePixel c p f z mc v = .error e) : RenderingFault c e := by
  unfold writePixel at h
  split at h
  · cases h
  split at h
  next hstore =>
    cases h
    exact fbStore_error hstore
  split at h
  · split at h
    next hstore =>
      cases h
      exact .access (writeIf_error hstore)
    next => cases h
  · cases h

theorem finish1_error {f : Fragment} (h : finish1 c p f = .error e) : RenderingFault c e := by
  unfold finish1 at h
  split at h
  next hread =>
    cases h
    exact .access (fbRead_error hread)
  split at h
  next hz =>
    cases h
    exact .access (zCompare_error hz)
  split at h
  · exact writePixel_error h
  · cases h

theorem finish2_error {f : Fragment} (h : finish2 c p f = .error e) : RenderingFault c e := by
  unfold finish2 at h
  split at h
  next hread =>
    cases h
    exact .access (fbRead_error hread)
  split at h
  next hz =>
    cases h
    exact .access (zCompare_error hz)
  split at h
  · exact writePixel_error h
  · cases h

theorem pixel1_error {l : Line} {j : Nat} (h : pixel1 c l j p = .error e) : RenderingFault c e := by
  unfold pixel1 at h
  simp only at h
  split at h
  next ht =>
    cases h
    exact texels1_error ht
  next => exact finish1_error h

theorem pixel2_error {l : Line} {j : Nat} (h : pixel2 c l j p = .error e) : RenderingFault c e := by
  unfold pixel2 at h
  simp only at h
  split at h
  next ht =>
    cases h
    exact texels2_error ht
  next => exact finish2_error h

/-! ## Copy and fill -/

theorem copyFetch_error (hcycle : c.regs.om.cycleType = .copy) {q : Nat × Nat} {n : BitVec 3}
    (h : copyFetch c p q n = .error e) : RenderingFault c e := by
  unfold copyFetch at h
  simp only at h
  split at h
  case h_1 | h_2 => cases h
  all_goals
    split at h
    case isTrue =>
      split at h
      next hfetch =>
        cases h
        exact .copySizeMismatch hfetch hcycle
      next => cases h
  -- Sizes that agree: an 8-bit group is free or read, a 16-bit group is read.
  · split at h <;> cases h
  · cases h

theorem copyBytes_error {q m : Nat} {a : Int} {n : Nat} {host : HostMem} (h : copyBytes c q m a n host = .error e) :
    AccessFault c.params e := by
  obtain ⟨k, t, -, -, hk⟩ := forE_error h
  split at hk
  · exact writeIf_error hk
  · cases hk

theorem copyGroupStep_error (hcycle : c.regs.om.cycleType = .copy) {l : CopyLine} {g : Nat}
    (h : copyGroupStep c l g p = .error e) : RenderingFault c e := by
  unfold copyGroupStep at h
  simp only at h
  split at h
  next hfetch =>
    cases h
    exact copyFetch_error hcycle hfetch
  split at h
  next hbytes =>
    cases h
    exact .access (copyBytes_error hbytes)
  cases h

theorem fillPixel_error {n : Int} {m : HostMem} (h : fillPixel c n m = .error e) : AccessFault c.params e := by
  unfold fillPixel at h
  simp only at h
  split at h
  · cases h
  all_goals exact writeIf_error h

theorem fillPixels_error {i : Int} {n : Nat} (h : fillPixels c i n p = .error e) : AccessFault c.params e := by
  obtain ⟨j, t, -, -, hj⟩ := forE_error h
  split at hj
  next => cases hj
  next hfill =>
    cases hj
    exact fillPixel_error hfill

theorem lineFill_error {range : Int × Nat} {i : Int} (h : lineFill c range i p = .error e) : AccessFault c.params e := by
  unfold lineFill at h
  split at h
  · exact fillPixels_error h
  · split at h
    next => cases h
    next hfill =>
      cases h
      exact fillPixels_error hfill

/-! ## Primitives -/

theorem renderLine_error {range : Int × Nat} {i : Int} (h : renderLine c range i p = .error e) : RenderingFault c e := by
  unfold renderLine at h
  split at h
  case h_1 =>
    obtain ⟨j, t, -, -, hj⟩ := forE_error h
    exact pixel1_error hj
  case h_2 =>
    obtain ⟨j, t, -, -, hj⟩ := forE_error h
    exact pixel2_error hj
  case h_3 hcycle =>
    obtain ⟨g, t, -, -, hg⟩ := forE_error h
    exact copyGroupStep_error hcycle hg
  case h_4 => exact .access (lineFill_error h)

theorem renderSpans_error {range : Int × Nat} (h : renderSpans c range p = .error e) : RenderingFault c e := by
  unfold renderSpans at h
  split at h
  · cases h
  obtain ⟨n, t, -, -, hn⟩ := forE_error h
  unfold renderStep at hn
  split at hn
  · cases hn
  · exact renderLine_error hn

end

/-- A rendering command that faults runs into a fault of its renderer, whose parameters and registers are the state's. -/
theorem runPrimitive_fault {P : EdgeParams} {s : State} {e : Fault} (h : runPrimitive P s = .fault e) :
    RenderingFault (edgeWalk s.toCtx P) e := by
  unfold runPrimitive at h
  split at h
  · cases h
  cases hdraw : drawPrimitive P s with
  | ok t =>
    rw [hdraw] at h
    cases h
  | error e' =>
    rw [hdraw] at h
    cases h
    unfold drawPrimitive at hdraw
    simp only at hdraw
    split at hdraw
    next => cases hdraw
    next hspans =>
      cases hdraw
      exact renderSpans_error hspans

/-- Settles O29: the command is the primitive of its parameter block, and its faults are those of the renderers. -/
theorem renderingFaultsAreNamed : Obligations.RenderingFaultsAreNamed := by
  unfold Obligations.RenderingFaultsAreNamed
  intro i s f hrender hexec
  obtain ⟨P, hP⟩ := Option.isSome_iff_exists.1 ((edgeParamsOf_isSome s.regs.om.cycleType i).trans hrender)
  rw [exec_primitive hP] at hexec
  cases runPrimitive_fault hexec with
  | fourBitColourImage hmode hsize => exact .inl ⟨rfl, hmode, hsize⟩
  | copySizeMismatch hfetch hcycle => exact .inr (.inl ⟨rfl, hfetch, hcycle⟩)
  | texelFormat hmode => exact .inr (.inr (.inl ⟨rfl, hmode⟩))
  | access h => exact .inr (.inr (.inr h))

end Sys2Proof.Machine
end

section
/-! The encoding (30_encoding.md): the length and the opcode of every command, the round trip of encoder and decoder, and the
bits that the decoder reads of a one-word command. On them rest the statements on the step (R301), on the loads (R315) and on
the parameters of the rendering commands (R317 to R322). -/

namespace Sys2Proof

/-! ## Lengths (R301, R302) -/

theorem one_le_cmdLen (op : BitVec 6) : 1 ≤ cmdLen op := by
  revert op
  decide

/-- An opcode that is neither a triangle's nor a texture rectangle's stands in one word (R302). -/
theorem cmdLen_eq_one {op : BitVec 6} (htri : ¬(0x08 ≤ op.toNat ∧ op.toNat ≤ 0x0F)) (hrect : op ≠ 0x24)
    (hflip : op ≠ 0x25) : cmdLen op = 1 := by
  rw [cmdLen, if_neg htri, if_neg]
  rintro (h | h)
  · exact hrect (BitVec.eq_of_toNat_eq h)
  · exact hflip (BitVec.eq_of_toNat_eq h)

/-- A one-word opcode is neither a triangle's nor a texture rectangle's (R302). -/
theorem not_multiWord_of_cmdLen {op : BitVec 6} (h : cmdLen op = 1) :
    ¬(0x08 ≤ op.toNat ∧ op.toNat ≤ 0x0F) ∧ op.toNat ≠ 0x24 ∧ op.toNat ≠ 0x25 := by
  revert op
  decide

/-- Enough words decode, to the command of their opcode's arm and its length. -/
theorem decode_of_enough {ws : List Word64} (h : cmdLen (opcode (wordAt ws 0)) ≤ ws.length) :
    decode ws = .ok (decodeCmd ws, cmdLen (opcode (wordAt ws 0))) := by
  cases ws with
  | nil => exact absurd ((one_le_cmdLen _).trans h) (by simp)
  | cons w rest => exact if_neg (Nat.not_lt.2 h)

/-- Too few words are no command (R1207). -/
theorem decode_of_tooFew {ws : List Word64} (h : ws.length < cmdLen (opcode (wordAt ws 0))) : ∃ e, decode ws = .error e := by
  cases ws with
  | nil => exact ⟨_, rfl⟩
  | cons w rest => exact ⟨_, if_pos h⟩

/-- The encoder writes as many words as the opcode's length (R302). -/
theorem length_encode (i : Instr) : (encode i).length = cmdLen i.op := by
  cases i
  case triFill e => exact Laws.EncodeLength.triFill e
  case triFillZ e z => exact Laws.EncodeLength.triFillZ e z
  case triTex e t => exact Laws.EncodeLength.triTex e t
  case triTexZ e t z => exact Laws.EncodeLength.triTexZ e t z
  case triShade e c => exact Laws.EncodeLength.triShade e c
  case triShadeZ e c z => exact Laws.EncodeLength.triShadeZ e c z
  case triShadeTex e c t => exact Laws.EncodeLength.triShadeTex e c t
  case triShadeTexZ e c t z => exact Laws.EncodeLength.triShadeTexZ e c t z
  all_goals rfl

/-! ## Opcodes (R304, R306) -/

/-- The decoder answers a command of the opcode it has read. -/
theorem op_decodeCmd (ws : List Word64) : (decodeCmd ws).op = opcode (wordAt ws 0) := by
  simp only [decodeCmd]
  split
  case h_64 =>
    -- The default arm: of the 64 opcodes only 0x3F is not named before it.
    have hlt : (opcode (wordAt ws 0)).toNat < 64 := (opcode (wordAt ws 0)).isLt
    have hlast : (opcode (wordAt ws 0)).toNat = 0x3F := by
      simp only [imp_false] at *
      omega
    exact BitVec.eq_of_toNat_eq hlast.symm
  all_goals exact BitVec.eq_of_toNat_eq (Eq.symm (by assumption))

/-- The encoder writes the command's opcode. -/
theorem opcode_encode (i : Instr) (rest : List Word64) : opcode (wordAt (encode i ++ rest) 0) = i.op := by
  cases i
  case triFill | triFillZ | triTex | triTexZ | triShade | triShadeZ | triShadeTex | triShadeTexZ =>
    simp only [encode, List.append_assoc]
    exact (decodeEdge_encode _ _ _).2
  all_goals exact opcode_packOp _ rfl

/-! ## The fields of an encoded command -/

/-- The first field of a packed word and the others, bit by bit. -/
theorem field_pack_cons (f : Field) (fs : List Field) (lo len : Nat) :
    field (pack (f :: fs)) lo len = field (pack [f]) lo len ||| field (pack fs) lo len := by
  simp [pack, field, BitVec.extractLsb'_or]

/-- Every field of a packed word reads back (R12). -/
theorem field_pack_of_mem {fs : List Field} (hok : fieldsOk fs = true) {f : Field} (hf : f ∈ fs) :
    field (pack fs) f.lo f.len = f.val := by
  induction fs with
  | nil => cases hf
  | cons g gs ih =>
    simp only [fieldsOk, Bool.and_eq_true, Nat.ble_eq, List.all_eq_true, Field.apart, Bool.or_eq_true] at hok
    obtain ⟨⟨h64, hapart⟩, hok⟩ := hok
    rw [field_pack_cons]
    rcases List.mem_cons.1 hf with rfl | hmem
    · have hself : field (pack [f]) f.lo f.len = f.val := by
        rw [field_pack (by simp [fieldsOk, h64]) (by simp [hasField])]
        simp [lookupField]
      have hothers : field (pack gs) f.lo f.len = 0 := field_pack_apart fun k hk => (hapart k hk).symm
      simp [hself, hothers]
    · have hfirst : field (pack [g]) f.lo f.len = 0 :=
        field_pack_apart fun k hk => by rw [List.mem_singleton.1 hk]; exact hapart f hmem
      simp [hfirst, ih hok hmem]

/-- The layout of every command names each bit of its first word once at most. -/
theorem fieldsOk_fields (i : Instr) : fieldsOk (fld 56 i.op :: i.fields) = true := by
  cases i <;> rfl

/-- Every field the layout names reads back from an encoded command's first word. -/
theorem field_encode (i : Instr) (rest : List Word64) :
    ∀ f ∈ i.fields, field (wordAt (encode i ++ rest) 0) f.lo f.len = f.val := by
  have hfields : ∀ f ∈ i.fields, field (packOp i.op i.fields) f.lo f.len = f.val :=
    fun _ hf => field_pack_of_mem (fieldsOk_fields i) (List.mem_cons_of_mem _ hf)
  cases i
  case triFill | triFillZ | triTex | triTexZ | triShade | triShadeZ | triShadeTex | triShadeTexZ => nofun
  all_goals exact hfields

/-! ## The blocks of an encoded triangle (R319 to R322) -/

/-- R321, with words after the block. -/
theorem decodeDepth_encode_append (pre post : List Word64) (z : Coeff) :
    decodeDepth (pre ++ (encodeDepth z ++ post)) pre.length = z := by
  have hword : ∀ k, wordAt (pre ++ (encodeDepth z ++ post)) (pre.length + k) = wordAt (encodeDepth z ++ post) k := by
    intro k
    simp [wordAt, List.getElem?_append_right]
  unfold decodeDepth
  rw [hword 1, ← Nat.add_zero pre.length, hword 0]
  simp [wordAt, encodeDepth, twoWords_field]

section
variable (op : BitVec 6) (e : EdgeCoeffs) (c : ShadeCoeffs) (t : TexCoeffs) (z : Coeff) (post : List Word64)

theorem decodeShade_edge : decodeShade (encodeEdge op e ++ (encodeShade c ++ post)) 4 = c :=
  decodeShade_encode (encodeEdge op e) post c

theorem decodeTexCoeffs_edge : decodeTexCoeffs (encodeEdge op e ++ (encodeTexCoeffs t ++ post)) 4 = t :=
  decodeTexCoeffs_encode (encodeEdge op e) post t

theorem decodeTexCoeffs_edge_shade :
    decodeTexCoeffs (encodeEdge op e ++ (encodeShade c ++ (encodeTexCoeffs t ++ post))) 12 = t :=
  decodeTexCoeffs_encode (encodeEdge op e ++ encodeShade c) post t

theorem decodeDepth_edge : decodeDepth (encodeEdge op e ++ (encodeDepth z ++ post)) 4 = z :=
  decodeDepth_encode_append (encodeEdge op e) post z

theorem decodeDepth_edge_shade : decodeDepth (encodeEdge op e ++ (encodeShade c ++ (encodeDepth z ++ post))) 12 = z :=
  decodeDepth_encode_append (encodeEdge op e ++ encodeShade c) post z

theorem decodeDepth_edge_tex : decodeDepth (encodeEdge op e ++ (encodeTexCoeffs t ++ (encodeDepth z ++ post))) 12 = z :=
  decodeDepth_encode_append (encodeEdge op e ++ encodeTexCoeffs t) post z

theorem decodeDepth_edge_shade_tex :
    decodeDepth (encodeEdge op e ++ (encodeShade c ++ (encodeTexCoeffs t ++ (encodeDepth z ++ post)))) 20 = z :=
  decodeDepth_encode_append (encodeEdge op e ++ encodeShade c ++ encodeTexCoeffs t) post z

end

/-! ## The round trip -/

/-- The opcode's arm of the decoder reads every operand back, at the place its layout gives it. -/
theorem decodeCmd_encode {i : Instr} (rest : List Word64) (hwf : i.wf = true) : decodeCmd (encode i ++ rest) = i := by
  have hfields := field_encode i rest
  cases i
  all_goals simp only [decodeCmd, opcode_encode, Instr.op, BitVec.reduceToNat]
  case triFill | triFillZ | triTex | triTexZ | triShade | triShadeZ | triShadeTex | triShadeTexZ =>
    simp only [encode, List.append_assoc, decodeEdge_encode, decodeShade_edge, decodeTexCoeffs_edge,
      decodeTexCoeffs_edge_shade, decodeDepth_edge, decodeDepth_edge_shade, decodeDepth_edge_tex, decodeDepth_edge_shade_tex]
  case setKeyGb | setKeyR | setConvert | setPrimDepth | loadBlock | setFillColor | setMaskImage =>
    simp only [Instr.fields, List.forall_mem_cons, fld] at hfields
    simp only [hfields, decodeTile]
  case setFogColor c => exact congrArg Instr.setFogColor (decodeColor_pack 0x38 c)
  case setBlendColor c => exact congrArg Instr.setBlendColor (decodeColor_pack 0x39 c)
  case setEnvColor c => exact congrArg Instr.setEnvColor (decodeColor_pack 0x3B c)
  case setPrimColor l f c =>
    obtain ⟨hcolor, hmin, hfrac⟩ := decodePrimColor_pack 0x3A l f c
    exact congr (congrArg₂ Instr.setPrimColor hmin hfrac) hcolor
  case setCombine m => exact congrArg Instr.setCombine (decodeCombine_pack 0x3C m)
  case setOtherModes m => exact congrArg Instr.setOtherModes (decodeOtherModes_pack 0x2F m)
  case setTextureImage d => exact congrArg Instr.setTextureImage (decodeImage_pack 0x3D hwf)
  case setColorImage d => exact congrArg Instr.setColorImage (decodeImage_pack 0x3F hwf)
  case setScissor r f k =>
    obtain ⟨hrect, hfield, hkeep⟩ := decodeScissor_pack 0x2D r f k
    exact congr (congrArg₂ Instr.setScissor hrect hfield) hkeep
  case setTile n m =>
    obtain ⟨hmode, htile⟩ := decodeTileMode_pack 0x35 n m
    exact congrArg₂ Instr.setTile htile hmode
  case setTileSize n b =>
    obtain ⟨hbounds, htile⟩ := decodeBounds_pack 0x32 n b
    exact congrArg₂ Instr.setTileSize htile hbounds
  case loadTile n b =>
    obtain ⟨hbounds, htile⟩ := decodeBounds_pack 0x34 n b
    exact congrArg₂ Instr.loadTile htile hbounds
  case loadTlut n b =>
    obtain ⟨hbounds, htile⟩ := decodeBounds_pack 0x30 n b
    exact congrArg₂ Instr.loadTlut htile hbounds
  case fillRect r => exact congrArg Instr.fillRect (decodeRect_pack 0x36 r)
  case texRect r n x =>
    obtain ⟨hrect, htile⟩ := decodeTexRect_pack 0x24 n r
    exact congr (congrArg₂ Instr.texRect hrect htile) (decodeRectTex_encode x)
  case texRectFlip r n x =>
    obtain ⟨hrect, htile⟩ := decodeTexRect_pack 0x25 n r
    exact congr (congrArg₂ Instr.texRectFlip hrect htile) (decodeRectTex_encode x)

/-- Settles O3: the encoded words have the command's opcode and are as many as its length, and its arm reads every operand
back. -/
theorem decodeEncodeAgree : Obligations.DecodeEncodeAgree := by
  unfold Obligations.DecodeEncodeAgree
  intro i rest hwf
  have hop := opcode_encode i rest
  have henough : cmdLen (opcode (wordAt (encode i ++ rest) 0)) ≤ (encode i ++ rest).length := by
    rw [hop, List.length_append, length_encode]
    omega
  rw [decode_of_enough henough, decodeCmd_encode rest hwf, hop]

/-- Settles O4: no opcode is rejected, and every arm answers a well-formed command of the opcode read. -/
theorem everyWordDecodes : Obligations.EveryWordDecodes := by
  unfold Obligations.EveryWordDecodes
  intro w rest henough
  exact ⟨decodeCmd (w :: rest), decode_of_enough henough, Machine.decodeCmd_wf _, op_decodeCmd _⟩

/-! ## The bits of a one-word command (R307) -/

/-- Two words hold the same in every field a list names; the values in the list play no part. -/
def SameFields (w w' : Word64) (fs : List Field) : Prop :=
  ∀ f ∈ fs, field w' f.lo f.len = field w f.lo f.len

section
variable {w w' : Word64}

theorem sameFields_append {fs gs : List Field} :
    SameFields w w' (fs ++ gs) ↔ SameFields w w' fs ∧ SameFields w w' gs := List.forall_mem_append

theorem sameFields_fld {lo len : Nat} {v : BitVec len} {fs : List Field} :
    SameFields w w' (fld lo v :: fs) ↔ field w' lo len = field w lo len ∧ SameFields w w' fs := List.forall_mem_cons

theorem field_one_eq_iff {i : Nat} : field w' i 1 = field w i 1 ↔ bit w' i = bit w i := by
  rw [bit_field, bit_field]
  refine ⟨fun h => by rw [h], fun h => BitVec.eq_of_getLsbD_eq fun k hk => ?_⟩
  obtain rfl : k = 0 := by omega
  exact h

theorem sameFields_flag {i : Nat} {b : Bool} {fs : List Field} :
    SameFields w w' (flag i b :: fs) ↔ bit w' i = bit w i ∧ SameFields w w' fs := by
  rw [flag, sameFields_fld, field_one_eq_iff]

theorem SameFields.decodeColor_eq {c : Rgba8} (h : SameFields w w' (colorFields c)) : decodeColor w' = decodeColor w := by
  simp only [colorFields, sameFields_fld] at h
  simp only [decodeColor, h]

theorem SameFields.decodeOtherModes_eq {m : OtherModes} (h : SameFields w w' (otherModesFields m)) :
    decodeOtherModes w' = decodeOtherModes w := by
  simp only [otherModesFields, sameFields_fld, sameFields_flag, sameFields_append] at h
  simp only [decodeOtherModes, h]

theorem SameFields.decodeCombine_eq {m : CombineMode} (h : SameFields w w' (combineFields m)) :
    decodeCombine w' = decodeCombine w := by
  simp only [combineFields, sameFields_fld] at h
  simp only [decodeCombine, h]

theorem SameFields.decodeImage_eq {d : ImageDesc} (h : SameFields w w' (imageFields d)) :
    decodeImage w' = decodeImage w := by
  simp only [imageFields, sameFields_fld] at h
  simp only [decodeImage, h]

theorem SameFields.decodeTileMode_eq {m : TileMode} (h : SameFields w w' (tileModeFields m)) :
    decodeTileMode w' = decodeTileMode w := by
  simp only [tileModeFields, sameFields_fld, sameFields_flag] at h
  simp only [decodeTileMode, h]

theorem SameFields.decodeBounds_eq {b : TileBounds} (h : SameFields w w' (boundsFields b)) :
    decodeBounds w' = decodeBounds w := by
  simp only [boundsFields, sameFields_fld] at h
  simp only [decodeBounds, h]

theorem SameFields.decodeRect_eq {r : Rect} (h : SameFields w w' (rectFields r)) : decodeRect w' = decodeRect w := by
  simp only [rectFields, sameFields_fld] at h
  simp only [decodeRect, h]

theorem SameFields.decodeScissor_eq {r : Rect} (h : SameFields w w' (scissorFields r)) :
    decodeScissor w' = decodeScissor w := by
  simp only [scissorFields, sameFields_fld] at h
  simp only [decodeScissor, h]

/-- A one-word command is decoded from its opcode and the fields its layout names. -/
theorem SameFields.decodeCmd_eq {rest rest' : List Word64} (h : SameFields w w' (decodeCmd (w :: rest)).fields)
    (hop : opcode w' = opcode w) (hlen : cmdLen (opcode w) = 1) : decodeCmd (w' :: rest') = decodeCmd (w :: rest) := by
  obtain ⟨htri, hrect, hflip⟩ := not_multiWord_of_cmdLen hlen
  revert h
  simp only [decodeCmd, wordAt, List.getD_cons_zero, hop]
  split
  -- The eight triangles, TEX_RECT and TEX_RECT_FLIP have more than one word.
  case h_9 | h_10 | h_11 | h_12 | h_13 | h_14 | h_15 | h_16 | h_37 | h_38 => omega
  all_goals
    intro h
    simp only [Instr.fields, sameFields_fld, sameFields_flag] at h
  -- SET_KEY_GB, SET_KEY_R, SET_CONVERT, SET_PRIM_DEPTH, LOAD_BLOCK, SET_FILL_COLOR, SET_MASK_IMAGE: the fields themselves.
  case h_43 | h_44 | h_45 | h_47 | h_52 | h_56 | h_63 => simp only [h, decodeTile]
  -- SET_SCISSOR
  case h_46 => rw [h.1, h.2.1, h.2.2.decodeScissor_eq]
  -- SET_OTHER_MODES
  case h_48 => rw [h.decodeOtherModes_eq]
  -- LOAD_TLUT, SET_TILE_SIZE, LOAD_TILE
  case h_49 | h_51 | h_53 => rw [decodeTile, decodeTile, h.1, h.2.decodeBounds_eq]
  -- SET_TILE
  case h_54 => rw [decodeTile, decodeTile, h.1, h.2.decodeTileMode_eq]
  -- FILL_RECT
  case h_55 => rw [h.decodeRect_eq]
  -- SET_FOG_COLOR, SET_BLEND_COLOR, SET_ENV_COLOR
  case h_57 | h_58 | h_60 => rw [h.decodeColor_eq]
  -- SET_PRIM_COLOR
  case h_59 => rw [h.1, h.2.1, h.2.2.decodeColor_eq]
  -- SET_COMBINE
  case h_61 => rw [h.decodeCombine_eq]
  -- SET_TEXTURE_IMAGE, SET_COLOR_IMAGE
  case h_62 | h_64 => rw [h.decodeImage_eq]
  -- The commands without operands.
  all_goals rfl

end

/-- Settles O5: the arm of the opcode reads the named fields and nothing else of the word. -/
theorem unnamedBitsAreIgnored : Obligations.UnnamedBitsAreIgnored := by
  unfold Obligations.UnnamedBitsAreIgnored
  intro w w' rest rest' hlen h
  obtain ⟨hop, hfields⟩ := List.forall_mem_cons.1 h
  exact SameFields.decodeCmd_eq hfields hop hlen

/-- Settles O2: the ten lengths of the table, and the two branches of `cmdLen` for the others. -/
theorem commandLengths : Obligations.CommandLengths := by
  unfold Obligations.CommandLengths
  exact ⟨by decide, by decide, by decide, by decide, by decide, by decide, by decide, by decide, by decide, by decide,
    fun _ => cmdLen_eq_one, fun _ htri => if_pos htri⟩

/-- Settles O7: the decoder is run on the twelve samples. -/
theorem sampleWordsDecode : Obligations.SampleWordsDecode := by
  unfold Obligations.SampleWordsDecode
  decide +kernel

end Sys2Proof

namespace Sys2Proof.Machine

/-- Settles O1: with enough words the step is `exec` of the decoded command, with fewer or none there is nothing to decode. -/
theorem stepRunsDecodedCommand : Obligations.StepRunsDecodedCommand := by
  unfold Obligations.StepRunsDecodedCommand
  intro s
  refine ⟨fun w rest hdrop => ⟨fun hlen => ?enough, fun hlen => ?tooFew⟩, fun hdrop => ?none⟩
  case enough =>
    rw [step, State.fetch, hdrop, decode_of_enough (ws := w :: rest) hlen]
    rfl
  case tooFew =>
    obtain ⟨e, hdecode⟩ := decode_of_tooFew (ws := w :: rest) hlen
    rw [step, State.fetch, hdrop, hdecode]
  case none => rw [step, State.fetch, hdrop, decode]

/-! ## The loads (R315, R500 to R502) -/

/-- Settles O35: the words by the decoder's arms; a load of a specified form answers when its copy does, and the copy answers
when every read does. -/
theorem loadsComplete : Obligations.LoadsComplete := by
  unfold Obligations.LoadsComplete
  refine ⟨fun w rest => ⟨fun h => ?tlutWord, fun h => ?blockWord, fun h => ?tileWord⟩,
    fun s n b sl tl sh dxt hsize hformat => ?complete⟩
  case tlutWord | blockWord | tileWord =>
    have hop : opcode w = _ := h
    simp only [decodeCmd, wordAt, List.getD_cons_zero, hop]
    rfl
  have hform : loadFormBad s.regs n = false :=
    Bool.or_eq_false_iff.2 ⟨beq_eq_false_iff_ne.2 hsize, beq_eq_false_iff_ne.2 hformat⟩
  refine ⟨fun hreads => ?tile, fun hreads => ?block, fun h16 hreads => ?tlut⟩
  case tile =>
    obtain ⟨m, hm⟩ := loadTileTexels_total (c := s.toCtx) hsize s.pixel.host (s.regs.getTile n) b hreads s.tmem
    refine ⟨m, ?_⟩
    rw [exec, execLoadTile, hform]
    exact runLoad_of_copy hm
  case block =>
    obtain ⟨m, hm⟩ :=
      loadBlockTexels_total (c := s.toCtx) hsize s.pixel.host (s.regs.getTile n) sl tl sh dxt hreads s.tmem
    refine ⟨m, ?_⟩
    rw [exec, execLoadBlock, hform]
    exact runLoad_of_copy hm
  case tlut =>
    have htlut : tlutFormBad s.regs n = false := Bool.or_eq_false_iff.2 ⟨bne_eq_false_iff_eq.2 h16, hform⟩
    obtain ⟨m, hm⟩ := loadTlutEntries_total (c := s.toCtx) s.pixel.host (s.regs.getTile n) b hreads s.tmem
    refine ⟨m, ?_⟩
    rw [exec, execLoadTlut, htlut]
    exact runLoad_of_copy hm

/-! ## The parameters of the rendering commands (R608, R630 to R632) -/

/-- A u10.2 coordinate in s15.16 is 2^14 times its quarters: the integer and the fractional bits do not overlap. -/
theorem rectX_eq (v : BitVec 12) : rectX v = v.toNat * 16384 := by
  have hfrac : v.toNat &&& 3 = v.toNat % 4 := Nat.and_two_pow_sub_one_eq_mod v.toNat 2
  have hlt : (v.toNat % 4) <<< 14 < 2 ^ 16 := by
    rw [Nat.shiftLeft_eq]
    omega
  rw [rectX, hfrac, ← Nat.shiftLeft_add_eq_or_of_lt hlt, Nat.shiftRight_eq_div_pow, Nat.shiftLeft_eq, Nat.shiftLeft_eq]
  omega

/-- `n | 3` is the last of the four sub-rows of n's scanline. -/
theorem or_three (n : Nat) : n ||| 3 = n / 4 * 4 + 3 := by
  have hsplit : n = (n / 4) <<< 2 ||| n % 4 := by
    rw [← Nat.shiftLeft_add_eq_or_of_lt (by omega), Nat.shiftLeft_eq]
    omega
  have hlow : ∀ r < 4, r ||| 3 = 3 := by decide
  calc n ||| 3 = ((n / 4) <<< 2 ||| n % 4) ||| 3 := by rw [← hsplit]
    _ = (n / 4) <<< 2 + 3 := by rw [Nat.or_assoc, hlow _ (by omega), Nat.shiftLeft_add_eq_or_of_lt (by decide)]
    _ = n / 4 * 4 + 3 := by rw [Nat.shiftLeft_eq]

theorem rectYl_eq (ct : CycleType) (yl : BitVec 12) :
    rectYl ct yl = if ct = .fill ∨ ct = .copy then yl.toNat / 4 * 4 + 3 else yl.toNat := by
  cases ct <;> simp [rectYl, or_three]

/-- Settles O28: the words by the decoder's arms, the blocks by `triParams` and `rectParams`. -/
theorem renderingCommandsHaveParameters : Obligations.RenderingCommandsHaveParameters := by
  unfold Obligations.RenderingCommandsHaveParameters
  refine ⟨fun i ct => edgeParamsOf_isSome ct i, fun w rest => ?triangleWords, fun w rest => ?rectangleWords,
    fun e h x z ct => ?triangleBlocks, fun r n x ct => ?rectangleBlocks⟩
  case triangleWords | rectangleWords =>
    and_intros
    all_goals
      intro h
      have hop : opcode w = _ := h
      simp only [decodeCmd, wordAt, List.getD_cons_zero, hop]
      rfl
  case triangleBlocks =>
    simp [edgeParamsOf, triParams, attrsOf, noShade, noTex, noDepth, Coeff.zero]
  case rectangleBlocks =>
    and_intros
    all_goals
      simp only [edgeParamsOf, rectParams, rectX_eq, rectYl_eq, texRectAttrs, texRectFlipAttrs, fillRectAttrs, ishl]
      rfl

end Sys2Proof.Machine
end

section
/-! The control-plane commands (40_control.md): the command that each of their words is, read off the layouts of R310 to R316, and
the whole state after each. -/

namespace Sys2Proof

/-! ## The words -/

/-- The code of each enumerated field is read back from the value it stands for (R105, R116). -/
@[simp] theorem CycleType.bits_ofBits (b : BitVec 2) : (CycleType.ofBits b).bits = b := by revert b; decide
@[simp] theorem PixSize.bits_ofBits (b : BitVec 2) : (PixSize.ofBits b).bits = b := by revert b; decide
@[simp] theorem ZMode.bits_ofBits (b : BitVec 2) : (ZMode.ofBits b).bits = b := by revert b; decide
@[simp] theorem CvgDest.bits_ofBits (b : BitVec 2) : (CvgDest.ofBits b).bits = b := by revert b; decide
@[simp] theorem RgbDitherSel.bits_ofBits (b : BitVec 2) : (RgbDitherSel.ofBits b).bits = b := by revert b; decide
@[simp] theorem AlphaDitherSel.bits_ofBits (b : BitVec 2) : (AlphaDitherSel.ofBits b).bits = b := by revert b; decide

/-- A word holds the value of every field a list names, at the field's place. -/
def HoldsFields (w : Word64) (fs : List Field) : Prop := ∀ f ∈ fs, w.extractLsb' f.lo f.len = f.val

section
variable {w : Word64} {fs gs : List Field}

@[simp] theorem holdsFields_nil : HoldsFields w [] := nofun

@[simp] theorem holdsFields_append : HoldsFields w (fs ++ gs) ↔ HoldsFields w fs ∧ HoldsFields w gs := List.forall_mem_append

@[simp] theorem holdsFields_fld {lo len : Nat} {v : BitVec len} :
    HoldsFields w (fld lo v :: fs) ↔ w.extractLsb' lo len = v ∧ HoldsFields w fs := List.forall_mem_cons

@[simp] theorem holdsFields_flag {i : Nat} {b : Bool} :
    HoldsFields w (flag i b :: fs) ↔ w.getLsbD i = b ∧ HoldsFields w fs := by
  have hbit : w.extractLsb' i 1 = BitVec.ofBool b ↔ w.getLsbD i = b := by
    simp [BitVec.eq_of_getLsbD_eq_iff]
  rw [flag, holdsFields_fld, hbit]

end

/-- A one-word command is decoded from every word that holds its opcode and its fields: such a word agrees with the encoder's
on all that the decoder reads. -/
theorem decodeCmd_of_holdsFields {i : Instr} {w : Word64} {rest : List Word64} (hop : w.extractLsb' 56 6 = i.op)
    (hlen : cmdLen i.op = 1) (hwf : i.wf = true) (hfields : HoldsFields w i.fields) : decodeCmd (w :: rest) = i := by
  obtain ⟨v, hv⟩ : ∃ v, encode i = [v] := List.length_eq_one_iff.1 ((length_encode i).trans hlen)
  have hround : decodeCmd [v] = i := by simpa [hv] using decodeCmd_encode [] hwf
  have hvop : opcode v = i.op := by simpa [hv, wordAt] using opcode_encode i []
  have hvfields : HoldsFields v i.fields := by
    rw [HoldsFields]
    simpa [hv, wordAt, field] using field_encode i []
  have hsame : SameFields v w (decodeCmd [v]).fields := by
    rw [hround]
    exact fun f hf => (hfields f hf).trans (hvfields f hf).symm
  exact (hsame.decodeCmd_eq (Eq.trans hop hvop.symm) (hvop ▸ hlen)).trans hround

/-- A one-word command without operands decodes, with its length, from every word of its opcode. -/
theorem decode_of_fields_nil {i : Instr} {w : Word64} {rest : List Word64} (hop : w.extractLsb' 56 6 = i.op)
    (hlen : cmdLen i.op = 1) (hwf : i.wf = true) (hfields : i.fields = []) : decode (w :: rest) = .ok (i, 1) := by
  have hone : cmdLen (opcode (wordAt (w :: rest) 0)) = 1 := (congrArg cmdLen hop).trans hlen
  rw [decode_of_enough (by simp [hone]), hone, decodeCmd_of_holdsFields hop hlen hwf (hfields ▸ holdsFields_nil)]

/-- The descriptor of an image word as R313 states it, the width by its number. -/
theorem decodeImage_eq (w : Word64) :
    decodeImage w =
      { format := w.extractLsb' 53 3, size := .ofBits (w.extractLsb' 51 2),
        width := BitVec.ofNat 11 ((w.extractLsb' 32 10).toNat + 1), address := w.extractLsb' 0 26 } := by
  rw [BitVec.ofNat_add, BitVec.ofNat_toNat]
  rfl

/-- An image word holds its descriptor: the width minus one is the field (R313). -/
theorem holdsFields_image (w : Word64) : HoldsFields w (imageFields (decodeImage w)) := by
  have hwidth : ((field w 32 10).setWidth 11 + 1 - 1).setWidth 10 = field w 32 10 := by
    rw [BitVec.add_sub_cancel, BitVec.setWidth_setWidth_of_le _ (by decide), BitVec.setWidth_eq]
  simp only [imageFields, decodeImage, holdsFields_fld, hwidth]
  simp [field]

end Sys2Proof

namespace Sys2Proof.Machine

/-- Settles O8: the word holds the mode record's fields at R311's places; the codes are run. -/
theorem setOtherModesWritesEveryField : Obligations.SetOtherModesWritesEveryField := by
  unfold Obligations.SetOtherModesWritesEveryField
  refine ⟨fun w rest h => decodeCmd_of_holdsFields h rfl rfl ?fields, fun m s => rfl, by decide⟩
  case fields => simp [Instr.fields, otherModesFields]

/-- Settles O9: the word holds the sixteen selectors at R312's places. -/
theorem setCombineWritesEverySelector : Obligations.SetCombineWritesEverySelector := by
  unfold Obligations.SetCombineWritesEverySelector
  refine ⟨fun w rest h => decodeCmd_of_holdsFields h rfl rfl ?fields, fun m s => rfl⟩
  case fields => simp [Instr.fields, combineFields]

/-- Settles O10: each word holds its colour, LOD values or fill word, and each command is one write of the registers. -/
theorem colourCommandsWriteTheirRegisters : Obligations.ColourCommandsWriteTheirRegisters := by
  unfold Obligations.ColourCommandsWriteTheirRegisters
  refine ⟨fun w rest => ?words, fun s c lodMin lodFrac f => ⟨rfl, rfl, rfl, rfl, rfl⟩⟩
  case words =>
    and_intros
    all_goals
      intro h
      refine decodeCmd_of_holdsFields h rfl rfl ?_
      simp [Instr.fields, colorFields]

/-- Settles O11: each word holds its operands; a key command writes its own channels of the three key registers. -/
theorem keyConvertAndDepthCommandsWriteTheirRegisters : Obligations.KeyConvertAndDepthCommandsWriteTheirRegisters := by
  unfold Obligations.KeyConvertAndDepthCommandsWriteTheirRegisters
  refine ⟨⟨fun w rest => ?keyWords, fun s _ _ _ _ _ _ _ _ _ => ⟨rfl, rfl⟩⟩,
    fun w rest => ?convertAndDepthWords, fun s _ _ _ _ _ _ _ _ => ⟨rfl, rfl⟩⟩
  case keyWords | convertAndDepthWords =>
    and_intros
    all_goals
      intro h
      refine decodeCmd_of_holdsFields h rfl rfl ?_
      simp [Instr.fields]

/-- Settles O12: the word holds the two corners and the two field bits at R316's places. -/
theorem setScissorWritesTheClip : Obligations.SetScissorWritesTheClip := by
  unfold Obligations.SetScissorWritesTheClip
  refine ⟨fun w rest h => decodeCmd_of_holdsFields h rfl rfl ?fields, fun s r f k => rfl⟩
  case fields => simp [Instr.fields, scissorFields]

/-- The latch after SET_COLOR_IMAGE and SET_MASK_IMAGE, as one condition (R1107). -/
theorem clearCrash_eq (P : Config.Params) (p : Pixel) :
    clearCrash P p = { p with crashed := p.crashed && !P.crashClearedBySetImage } := by
  rw [clearCrash]
  cases P.crashClearedBySetImage <;> simp

/-- Settles O13: an image word holds its descriptor, the width minus one in its field, and the latch after is `clearCrash`'s. -/
theorem imageCommandsWriteTheirDescriptors : Obligations.ImageCommandsWriteTheirDescriptors := by
  unfold Obligations.ImageCommandsWriteTheirDescriptors
  refine ⟨fun w rest => ?words, fun s d a => ?states⟩
  case words =>
    simp only [← decodeImage_eq]
    refine ⟨fun h => ?color, fun h => ?texture, fun h => ?mask⟩
    case color | texture =>
      exact decodeCmd_of_holdsFields h rfl (decodeImage_widthOk w) (holdsFields_image w)
    case mask => exact decodeCmd_of_holdsFields h rfl rfl (by simp [Instr.fields])
  case states =>
    simp only [← clearCrash_eq]
    exact ⟨rfl, rfl, rfl⟩

theorem Regs.getTile_setBounds_same (r : Regs) (n : BitVec 3) (b : TileBounds) :
    (r.setBounds n b).getTile n = { r.getTile n with toTileBounds := b } := Regs.getTile_setTile_same r n _

/-- Settles O14: each word holds its tile number and its part of the tile, and only that part of that tile is replaced. -/
theorem tileCommandsWriteOneTile : Obligations.TileCommandsWriteOneTile := by
  unfold Obligations.TileCommandsWriteOneTile
  refine ⟨fun w rest => ?words, fun s n m b => ⟨?setTile, ?setTileSize⟩⟩
  case words =>
    and_intros
    all_goals
      intro h
      refine decodeCmd_of_holdsFields h rfl rfl ?_
      simp [Instr.fields, tileModeFields, boundsFields]
  case setTile =>
    refine ⟨s.regs.setTile n { s.regs.getTile n with toTileMode := m }, rfl, rfl, ?_, ?_,
      fun k hk => Regs.getTile_setTile_ne _ _ _ _ hk⟩
    all_goals rw [Regs.getTile_setTile_same]
  case setTileSize =>
    refine ⟨s.regs.setBounds n b, rfl, rfl, ?_, ?_, fun k hk => Regs.getTile_setTile_ne _ _ _ _ hk⟩
    all_goals rw [Regs.getTile_setBounds_same]

/-- Settles O15: the opcode is all that a word without operands has to hold. -/
theorem syncsAndNopChangeNothing : Obligations.SyncsAndNopChangeNothing := by
  unfold Obligations.SyncsAndNopChangeNothing
  refine ⟨fun w rest => ?words, fun s => ⟨rfl, rfl, rfl, rfl, rfl⟩⟩
  case words =>
    and_intros
    all_goals exact fun h => decodeCmd_of_holdsFields h rfl rfl holdsFields_nil

/-- R306 and R435 for an opcode and its command, from the command's rows in the model's tables. -/
theorem unassigned_decode_exec {p : BitVec 6 × Instr} (hop : p.2.op = p.1) (hlen : cmdLen p.2.op = 1) (hwf : p.2.wf = true)
    (hfields : p.2.fields = []) (hexec : exec p.2 = warnUnassigned p.1) :
    (∀ (w : Word64) (rest : List Word64), w.extractLsb' 56 6 = p.1 → decode (w :: rest) = .ok (p.2, 1)) ∧
      ∀ s : State,
        exec p.2 s = .next { s with pixel := { s.pixel with diag := s.pixel.diag ++ [.unassignedOpcode p.1] } } := by
  refine ⟨fun w rest h => decode_of_fields_nil (h.trans hop.symm) hlen hwf hfields, fun s => ?_⟩
  rw [hexec]
  rfl

/-- Settles O16: one argument for the 28 opcodes, whose rows of the model's tables are read off. -/
theorem unassignedOpcodesWarn : Obligations.UnassignedOpcodesWarn := by
  unfold Obligations.UnassignedOpcodesWarn
  refine ⟨fun p hp => ?opcodes, by decide⟩
  fin_cases hp
  all_goals exact unassigned_decode_exec rfl rfl rfl rfl rfl

end Sys2Proof.Machine
end

section
/-! The texture loads (41_texture_load.md). A texel copied to TMEM takes one cell: its byte, its halfword, or its halfword in each
half (R505). Reads after a TMEM write give the rule of one copied texel (it holds its cell, every other byte is as before); a
loop of copies to distinct cells then holds them all. That the swizzled addresses of LOAD_TILE and LOAD_BLOCK have distinct cells
is arithmetic on 64-bit words, within which the swizzle stays (R503). -/

namespace Sys2Proof.Machine

open Sys2Proof.Config

/-! ## The forms that fault (R507) -/

/-- Settles O36: either reason makes the form bad, and a load of a bad form is the fault. -/
theorem unspecifiedLoadsFault : Obligations.UnspecifiedLoadsFault := by
  unfold Obligations.UnspecifiedLoadsFault
  intro s n b sl tl sh dxt
  refine ⟨fun h => ?tileAndBlock, fun h => ?tlut⟩
  case tileAndBlock =>
    have hbad : loadFormBad s.regs n = true := by simpa [loadFormBad, fmtYuv] using h
    simp [exec, execLoadTile, execLoadBlock, runLoad, hbad]
  case tlut =>
    have hbad : tlutFormBad s.regs n = true := by
      rcases h with h | h <;> simp [tlutFormBad, loadFormBad, fmtYuv, h]
    simp [exec, execLoadTlut, runLoad, hbad]

/-! ## TMEM after a write -/

section
variable {m : List Host.Cell}

theorem and_0xfff (a : Nat) : a &&& 0xfff = a % 4096 := Nat.and_two_pow_sub_one_eq_mod a 12
theorem and_0x7ff (a : Nat) : a &&& 0x7ff = a % 2048 := Nat.and_two_pow_sub_one_eq_mod a 11
theorem and_0x3ff (a : Nat) : a &&& 0x3ff = a % 1024 := Nat.and_two_pow_sub_one_eq_mod a 10

/-- The address of a halfword's first byte. -/
theorem two_mul_and_0xffe (h : Nat) : 2 * h &&& 0xffe = 2 * h % 4096 := by
  have hshift := Nat.shiftLeft_and_distrib (a := h) (b := 0x7ff) (i := 1)
  simp only [and_0x7ff, Nat.shiftLeft_eq] at hshift
  rw [Nat.mul_comm, ← hshift]
  omega

/-- A byte after a byte write. -/
theorem tmemRead8_tmemWrite8 (hm : tmemInv m = true) (a : Nat) (v : Byte) (x : Nat) :
    tmemRead8 (tmemWrite8 m a v) x = if x % 4096 = a % 4096 then v else tmemRead8 m x := by
  obtain ⟨hwf, -⟩ := tmemInv_iff.1 hm
  rw [tmemRead8, tmemWrite8, sparseGet_put_some hwf, and_0xfff, and_0xfff, tmemRead8, and_0xfff]

/-- A byte after a halfword write: the halfword's high byte is at its even address. -/
theorem tmemRead8_tmemWrite16 (hm : tmemInv m = true) (h v x : Nat) :
    tmemRead8 (tmemWrite16 m h v) x =
      if x / 2 % 2048 = h % 2048 then BitVec.ofNat 8 (if x % 2 = 0 then v / 256 else v) else tmemRead8 m x := by
  obtain ⟨hwf, -⟩ := tmemInv_iff.1 hm
  rw [tmemRead8, tmemWrite16, sparseGet_put_some (sparsePut_wf _ _ hwf), sparseGet_put_some hwf, tmemRead8,
    two_mul_and_0xffe, and_0xfff, and_0xfff]
  by_cases hhalf : x / 2 % 2048 = h % 2048
  · by_cases heven : x % 2 = 0
    · rw [if_neg (by omega), if_pos (by omega), if_pos hhalf, if_pos heven]
    · rw [if_pos (by omega), if_pos hhalf, if_neg heven]
  · rw [if_neg (by omega), if_neg (by omega), if_neg hhalf]

/-- A halfword is its two bytes, the high one first. -/
theorem tmemRead16_eq (m : List Host.Cell) (h : Nat) :
    tmemRead16 m h = (tmemRead8 m (2 * h)).toNat * 256 + (tmemRead8 m (2 * h + 1)).toNat := by
  rw [tmemRead16, tmemRead8, tmemRead8, two_mul_and_0xffe, and_0xfff, and_0xfff]

/-- A halfword after a halfword write. -/
theorem tmemRead16_tmemWrite16 (hm : tmemInv m = true) {v : Nat} (hv : v < 65536) (h k : Nat) :
    tmemRead16 (tmemWrite16 m h v) k = if k % 2048 = h % 2048 then v else tmemRead16 m k := by
  rw [tmemRead16_eq, tmemRead8_tmemWrite16 hm, tmemRead8_tmemWrite16 hm]
  by_cases hsame : k % 2048 = h % 2048
  · rw [if_pos (by omega), if_pos (by omega), if_pos (by omega), if_neg (by omega), if_pos hsame, BitVec.toNat_ofNat,
      BitVec.toNat_ofNat]
    omega
  · rw [if_neg (by omega), if_neg (by omega), if_neg hsame, tmemRead16_eq]

end

/-- Two TMEMs with the same bytes of a halfword have the same halfword. -/
theorem tmemRead16_congr {m m' : List Host.Cell} {h : Nat}
    (hbytes : ∀ x, x / 2 = h → tmemRead8 m' x = tmemRead8 m x) : tmemRead16 m' h = tmemRead16 m h := by
  rw [tmemRead16_eq, tmemRead16_eq, hbytes (2 * h) (by omega), hbytes (2 * h + 1) (by omega)]

/-! ## What one round of a loop establishes -/

/-- What a round establishes and the later ones keep holds of what the loop answers. -/
theorem forE_lasts {σ : Type} {f : Nat → σ → Except Fault σ} {Q A : σ → Prop} {j : Nat} :
    ∀ {n i : Nat} {s s' : σ}, forE f i n s = .ok s' → Q s → i ≤ j → j < i + n →
      (∀ k u u', Q u → f k u = .ok u' → Q u') → (∀ u u', Q u → f j u = .ok u' → A u') →
      (∀ k u u', j < k → k < i + n → Q u → A u → f k u = .ok u' → A u') → A s'
  | 0, _, _, _, _, _, _, _, _, _, _ => by omega
  | n + 1, i, s, s', h, hs, hij, hjn, hinv, hset, hkeep => by
    simp only [forE] at h
    split at h
    next u hu =>
      have hQ : Q u := hinv i s u hs hu
      rcases Nat.eq_or_lt_of_le hij with rfl | hlt
      · obtain ⟨-, hA⟩ := forE_inv (Q := fun v => Q v ∧ A v)
          (fun k v v' hk hk' ⟨hq, ha⟩ hv => ⟨hinv k v v' hq hv, hkeep k v v' (by omega) (by omega) hq ha hv⟩)
          ⟨hQ, hset s u hs hu⟩ h
        exact hA
      · exact forE_lasts h hQ hlt (by omega) hinv hset (fun k v v' hk hk' => hkeep k v v' hk (by omega))
    next => cases h

/-! ## The palette (R502) -/

/-- A halfword after the write of an entry's four lanes. -/
theorem tmemRead16_writeLanes {m : List Host.Cell} (hm : tmemInv m = true) {h v k : Nat} (hv : v < 65536)
    (hfit : h + 4 ≤ 2048) (hk : k < 2048) :
    tmemRead16 (writeLanes m h v) k = if h ≤ k ∧ k < h + 4 then v else tmemRead16 m k := by
  have hwrite {m' : List Host.Cell} (hm' : tmemInv m' = true) (j : Nat) (hj : j < 4) :
      tmemRead16 (tmemWrite16 m' (h + j &&& 0x7ff) v) k = if k = h + j then v else tmemRead16 m' k := by
    rw [tmemRead16_tmemWrite16 hm' hv, and_0x7ff]
    simp only [Nat.mod_eq_of_lt hk, Nat.mod_eq_of_lt (show h + j < 2048 by omega)]
  have h0 := tmemWrite16_inv (h + 0 &&& 0x7ff) v hm
  have h1 := tmemWrite16_inv (h + (0 + 1) &&& 0x7ff) v h0
  have h2 := tmemWrite16_inv (h + (0 + 1 + 1) &&& 0x7ff) v h1
  simp only [writeLanes, forP]
  rw [hwrite h2 _ (by omega), hwrite h1 _ (by omega), hwrite h0 _ (by omega), hwrite hm _ (by omega)]
  split_ifs
  all_goals omega

/-- One round of LOAD_TLUT: entry `i` is read and written to its four lanes. -/
def tlutRound (c : Ctx) (host : HostMem) (t : Tile) (b : TileBounds) (i : Nat) (m : List Host.Cell) :
    Except Fault (List Host.Cell) :=
  match memRead c.params host (texAddr c.regs (b.sl.toNat / 4 + i) (b.tl.toNat / 4)) 2 with
  | .ok v => .ok (writeLanes m (4 * t.tmem.toNat + 4 * i) v)
  | .error e => .error e

section
variable {c : Ctx} {host : HostMem} {t : Tile} {b : TileBounds} {m m' : List Host.Cell}

theorem loadTlutEntries_eq_forE (c : Ctx) (host : HostMem) (t : Tile) (b : TileBounds) (m : List Host.Cell) :
    loadTlutEntries c host t b m = forE (tlutRound c host t b) 0 (texelCount b.sl b.sh) m := rfl

/-- All a round of LOAD_TLUT can do. -/
theorem tlutRound_ok {i : Nat} (h : tlutRound c host t b i m = .ok m') :
    ∃ v, memRead c.params host (texAddr c.regs (b.sl.toNat / 4 + i) (b.tl.toNat / 4)) 2 = .ok v ∧
      m' = writeLanes m (4 * t.tmem.toNat + 4 * i) v := by
  unfold tlutRound at h
  split at h
  next v hv =>
    cases h
    exact ⟨v, hv, rfl⟩
  next => cases h

theorem tlutRound_inv {i : Nat} (hm : tmemInv m = true) (h : tlutRound c host t b i m = .ok m') : tmemInv m' = true := by
  obtain ⟨v, -, rfl⟩ := tlutRound_ok h
  exact writeLanes_inv _ v hm

/-- A halfword outside the entry is as before. -/
theorem tlutRound_frame {i k : Nat} (hm : tmemInv m = true) (h : tlutRound c host t b i m = .ok m')
    (hfit : 4 * t.tmem.toNat + 4 * i + 4 ≤ 2048) (hk : k < 2048)
    (hout : k < 4 * t.tmem.toNat + 4 * i ∨ 4 * t.tmem.toNat + 4 * i + 4 ≤ k) : tmemRead16 m' k = tmemRead16 m k := by
  obtain ⟨v, hv, rfl⟩ := tlutRound_ok h
  rw [tmemRead16_writeLanes hm (memRead_lt hv) hfit hk, if_neg (by omega)]

/-- Every lane of the entry is the halfword read. -/
theorem tlutRound_lane {i k : Nat} (hm : tmemInv m = true) (h : tlutRound c host t b i m = .ok m')
    (hfit : 4 * t.tmem.toNat + 4 * i + 4 ≤ 2048) (hk : k < 4) :
    memRead c.params host (texAddr c.regs (b.sl.toNat / 4 + i) (b.tl.toNat / 4)) 2 =
      .ok (tmemRead16 m' (4 * t.tmem.toNat + 4 * i + k)) := by
  obtain ⟨v, hv, rfl⟩ := tlutRound_ok h
  rw [tmemRead16_writeLanes hm (memRead_lt hv) hfit (by omega), if_pos (by omega), hv]

/-- LOAD_TLUT leaves the halfwords outside its entries. -/
theorem loadTlutEntries_frame (hm : tmemInv m = true) (h : loadTlutEntries c host t b m = .ok m')
    (hfit : 4 * t.tmem.toNat + 4 * texelCount b.sl b.sh ≤ 2048) {k : Nat} (hk : k < 2048)
    (hout : k < 4 * t.tmem.toNat ∨ 4 * t.tmem.toNat + 4 * texelCount b.sl b.sh ≤ k) : tmemRead16 m' k = tmemRead16 m k := by
  rw [loadTlutEntries_eq_forE] at h
  obtain ⟨-, hsame⟩ := forE_inv (Q := fun u => tmemInv u = true ∧ tmemRead16 u k = tmemRead16 m k)
    (fun j u u' _ hj ⟨hu, hsame⟩ hr =>
      ⟨tlutRound_inv hu hr, (tlutRound_frame hu hr (by omega) hk (by omega)).trans hsame⟩) ⟨hm, rfl⟩ h
  exact hsame

/-- LOAD_TLUT leaves every entry in its four lanes: the rounds after the entry's own write other halfwords. -/
theorem loadTlutEntries_lane (hm : tmemInv m = true) (h : loadTlutEntries c host t b m = .ok m')
    (hfit : 4 * t.tmem.toNat + 4 * texelCount b.sl b.sh ≤ 2048) {i k : Nat} (hi : i < texelCount b.sl b.sh) (hk : k < 4) :
    memRead c.params host (texAddr c.regs (b.sl.toNat / 4 + i) (b.tl.toNat / 4)) 2 =
      .ok (tmemRead16 m' (4 * t.tmem.toNat + 4 * i + k)) := by
  rw [loadTlutEntries_eq_forE] at h
  refine forE_lasts (j := i) (Q := fun u => tmemInv u = true)
    (A := fun u => memRead _ _ _ 2 = .ok (tmemRead16 u (4 * t.tmem.toNat + 4 * i + k))) h hm (Nat.zero_le i) (by omega)
    (fun _ _ _ hu hr => tlutRound_inv hu hr) (fun _ _ hu hr => tlutRound_lane hu hr (by omega) hk)
    (fun j u u' hij hj hu hlane hr => ?_)
  rwa [tlutRound_frame hu hr (by omega) (by omega) (.inl (by omega))]

end

/-- Settles O37: an entry's own round writes its four halfwords, and no other round does. -/
theorem loadTlutWritesFourLanes : Obligations.LoadTlutWritesFourLanes := by
  unfold Obligations.LoadTlutWritesFourLanes
  intro s t n b hm h hfit
  simp only [exec, execLoadTlut] at h
  obtain ⟨-, m, hcopy, rfl⟩ := runLoad_next h
  exact ⟨fun i k hi hk => loadTlutEntries_lane hm hcopy hfit hi hk,
    fun x hx hout => loadTlutEntries_frame hm hcopy hfit hx hout⟩

/-! ## The cell of a texel (R505, R506) -/

/-- The cell that a texel at TMEM byte `a` takes: its byte, its halfword, or its halfword of TMEM's low half. -/
def tmemCell : PixSize → Nat → Nat
  | .b4, _ => 0
  | .b8, a => a &&& 0xfff
  | .b16, a => (a >>> 1) &&& 0x7ff
  | .b32, a => (a >>> 1) &&& 0x3ff

/-- The texel that a cell holds; a 32-bit texel has its low halfword in the same place of TMEM's high half. -/
def tmemTexel (m : List Host.Cell) : PixSize → Nat → Nat
  | .b4, _ => 0
  | .b8, k => (tmemRead8 m k).toNat
  | .b16, k => tmemRead16 m k
  | .b32, k => tmemRead16 m k * 65536 + tmemRead16 m (k + 1024)

/-- The bytes of TMEM that the cells of a size cover from address 0 on: all, or the low half. -/
def tmemSpan : PixSize → Nat
  | .b4 => 0
  | .b8 => 4096
  | .b16 => 4096
  | .b32 => 2048

theorem tmemCell_b8 (a : Nat) : tmemCell .b8 a = a % 4096 := and_0xfff a

theorem tmemCell_b16 (a : Nat) : tmemCell .b16 a = a / 2 % 2048 := by
  rw [tmemCell, and_0x7ff, Nat.shiftRight_eq_div_pow, Nat.pow_one]

theorem tmemCell_b32 (a : Nat) : tmemCell .b32 a = a / 2 % 1024 := by
  rw [tmemCell, and_0x3ff, Nat.shiftRight_eq_div_pow, Nat.pow_one]

/-- TMEM's texel in a cell depends on the bytes of the cell alone. -/
theorem tmemTexel_congr {m m' : List Host.Cell} {size : PixSize} {a : Nat}
    (hbytes : ∀ x, tmemCell size x = tmemCell size a → tmemRead8 m' x = tmemRead8 m x) :
    tmemTexel m' size (tmemCell size a) = tmemTexel m size (tmemCell size a) := by
  cases size
  case b4 => rfl
  case b8 =>
    simp only [tmemCell_b8] at hbytes ⊢
    simp only [tmemTexel, hbytes (a % 4096) (by omega)]
  case b16 =>
    simp only [tmemCell_b16] at hbytes ⊢
    exact tmemRead16_congr (fun x hx => hbytes x (by omega))
  case b32 =>
    simp only [tmemCell_b32] at hbytes ⊢
    rw [tmemTexel, tmemTexel, tmemRead16_congr (h := a / 2 % 1024) (fun x hx => hbytes x (by omega)),
      tmemRead16_congr (h := a / 2 % 1024 + 1024) (fun x hx => hbytes x (by omega))]

section
variable {P : Params} {host : HostMem} {size : PixSize} {a : Nat} {src : Int} {m m' : List Host.Cell}

/-- TMEM holds, in the cell of byte `a`, the texel that host memory has at `src`. -/
def HoldsTexel (P : Params) (host : HostMem) (size : PixSize) (a : Nat) (src : Int) (m : List Host.Cell) : Prop :=
  memRead P host src (texelBytes size) = .ok (tmemTexel m size (tmemCell size a))

/-- All the copy of a texel can do: the texel read is written to its cell. -/
theorem loadTexel_ok (h : loadTexel P host size a src m = .ok m') :
    ∃ v, memRead P host src (texelBytes size) = .ok v ∧
      ((size = .b8 ∧ m' = tmemWrite8 m a (BitVec.ofNat 8 v)) ∨
        (size = .b16 ∧ m' = tmemWrite16 m (tmemCell .b16 a) v) ∨
        (size = .b32 ∧
          m' = tmemWrite16 (tmemWrite16 m (tmemCell .b32 a) (v >>> 16)) (tmemCell .b32 a ||| 0x400) (v &&& 0xffff))) := by
  unfold loadTexel at h
  split at h
  case h_1 => cases h
  all_goals
    split at h
    next v hv =>
      cases h
      exact ⟨v, hv, by simp [tmemCell]⟩
    next => cases h

/-- The halfword of TMEM's high half that goes with a cell. -/
theorem or_0x400 {k : Nat} (h : k < 1024) : k ||| 0x400 = k + 1024 := by
  have hadd := Nat.shiftLeft_add_eq_or_of_lt (i := 10) h 1
  rw [Nat.or_comm, Nat.add_comm]
  exact hadd.symm

/-- The copy of a texel leaves every byte outside its cell. -/
theorem loadTexel_frame (hm : tmemInv m = true) (h : loadTexel P host size a src m = .ok m') {x : Nat}
    (hx : tmemCell size x ≠ tmemCell size a) : tmemRead8 m' x = tmemRead8 m x := by
  obtain ⟨v, -, ⟨rfl, rfl⟩ | ⟨rfl, rfl⟩ | ⟨rfl, rfl⟩⟩ := loadTexel_ok h
  · simp only [tmemCell_b8] at hx
    rw [tmemRead8_tmemWrite8 hm, if_neg hx]
  · simp only [tmemCell_b16] at hx
    rw [tmemRead8_tmemWrite16 hm, tmemCell_b16, if_neg (by omega)]
  · simp only [tmemCell_b32] at hx
    rw [tmemCell_b32, or_0x400 (Nat.mod_lt _ (by decide)), tmemRead8_tmemWrite16 (tmemWrite16_inv _ _ hm), if_neg (by omega),
      tmemRead8_tmemWrite16 hm, if_neg (by omega)]

/-- The copy of a texel leaves it in its cell. -/
theorem loadTexel_holds (hm : tmemInv m = true) (h : loadTexel P host size a src m = .ok m') :
    HoldsTexel P host size a src m' := by
  obtain ⟨v, hv, ⟨rfl, rfl⟩ | ⟨rfl, rfl⟩ | ⟨rfl, rfl⟩⟩ := loadTexel_ok h
  all_goals
    have hlt := memRead_lt hv
    simp only [texelBytes, Nat.reducePow] at hlt
    rw [HoldsTexel, hv, Except.ok.injEq, tmemTexel]
  · rw [tmemCell_b8, tmemRead8_tmemWrite8 hm, if_pos (by omega), BitVec.toNat_ofNat, Nat.mod_eq_of_lt hlt]
  · rw [tmemRead16_tmemWrite16 hm hlt, if_pos rfl]
  · have hcell : tmemCell .b32 a < 1024 := tmemCell_b32 a ▸ Nat.mod_lt _ (by decide)
    have hhigh : v >>> 16 = v / 65536 := Nat.shiftRight_eq_div_pow v 16
    have hlow : v &&& 0xffff = v % 65536 := Nat.and_two_pow_sub_one_eq_mod v 16
    have hm' := tmemWrite16_inv (tmemCell .b32 a) (v >>> 16) hm
    rw [or_0x400 hcell, tmemRead16_tmemWrite16 hm' (by omega), if_neg (by omega), tmemRead16_tmemWrite16 hm' (by omega),
      if_pos rfl, tmemRead16_tmemWrite16 hm (by omega), if_pos rfl]
    omega

/-- The copy of another texel leaves the texel of a cell. -/
theorem HoldsTexel.of_loadTexel {a' : Nat} {src' : Int} (hold : HoldsTexel P host size a src m) (hm : tmemInv m = true)
    (h : loadTexel P host size a' src' m = .ok m') (hne : tmemCell size a ≠ tmemCell size a') :
    HoldsTexel P host size a src m' := by
  rw [HoldsTexel, tmemTexel_congr (fun x hx => loadTexel_frame hm h (hx.trans_ne hne))]
  exact hold

end

/-! ## A loop of texels -/

section
variable {P : Params} {host : HostMem} {size : PixSize} {addr : Nat → Nat} {src : Nat → Int} {n : Nat} {m m' : List Host.Cell}

theorem loadTexels_inv (hm : tmemInv m = true)
    (h : forE (fun i m => loadTexel P host size (addr i) (src i) m) 0 n m = .ok m') : tmemInv m' = true :=
  forE_inv (Q := fun u => tmemInv u = true) (fun _ _ _ _ _ hu hr => loadTexel_inv hu hr) hm h

/-- A loop of texels leaves every byte outside their cells. -/
theorem loadTexels_frame (hm : tmemInv m = true)
    (h : forE (fun i m => loadTexel P host size (addr i) (src i) m) 0 n m = .ok m') {x : Nat}
    (hx : ∀ i < n, tmemCell size x ≠ tmemCell size (addr i)) : tmemRead8 m' x = tmemRead8 m x := by
  obtain ⟨-, hsame⟩ := forE_inv (Q := fun u => tmemInv u = true ∧ tmemRead8 u x = tmemRead8 m x)
    (fun i u u' _ hi ⟨hu, hsame⟩ hr =>
      ⟨loadTexel_inv hu hr, (loadTexel_frame hu hr (hx i (by omega))).trans hsame⟩) ⟨hm, rfl⟩ h
  exact hsame

/-- A loop of texels to distinct cells leaves each in its cell. -/
theorem loadTexels_holds (hm : tmemInv m = true)
    (h : forE (fun i m => loadTexel P host size (addr i) (src i) m) 0 n m = .ok m')
    (hinj : ∀ i < n, ∀ j < n, tmemCell size (addr i) = tmemCell size (addr j) → i = j) {i : Nat} (hi : i < n) :
    HoldsTexel P host size (addr i) (src i) m' :=
  forE_lasts (Q := fun u => tmemInv u = true) h hm (Nat.zero_le i) (by omega)
    (fun _ _ _ hu hr => loadTexel_inv hu hr)
    (fun _ _ hu hr => loadTexel_holds hu hr)
    (fun j _ _ hij hj hu hold hr => hold.of_loadTexel hu hr (fun heq => hij.ne (hinj i hi j (by omega) heq)))

/-- A loop of texels to other cells leaves the texel of a cell. -/
theorem HoldsTexel.of_loadTexels {a : Nat} {src' : Int} (hold : HoldsTexel P host size a src' m) (hm : tmemInv m = true)
    (h : forE (fun i m => loadTexel P host size (addr i) (src i) m) 0 n m = .ok m')
    (hne : ∀ i < n, tmemCell size a ≠ tmemCell size (addr i)) : HoldsTexel P host size a src' m' := by
  rw [HoldsTexel, tmemTexel_congr (fun x hx => loadTexels_frame hm h (fun i hi => hx.trans_ne (hne i hi)))]
  exact hold

end

end Sys2Proof.Machine
end

section
/-! The cells of LOAD_TILE and LOAD_BLOCK (R500, R501, R503): the swizzle moves an address within its 64-bit word, so addresses
of different texels keep different cells; and a texel's cell under LOAD_TILE is the place the texture pipeline reads (R820). -/

namespace Sys2Proof.Machine

open Sys2Proof.Config

/-! ## The swizzle (R503) -/

/-- Flipping bit 2 of an address moves it by four bytes within its 64-bit word. -/
theorem xor_four (a : Nat) : a ^^^ 4 = a / 8 * 8 + (a + 4) % 8 := by
  have hword : (a ^^^ 4) / 8 = a / 8 := by simpa using Nat.xor_div_two_pow (a := a) (b := 4) (n := 3)
  have hbyte : (a ^^^ 4) % 8 = a % 8 ^^^ 4 := Nat.xor_mod_two_pow (n := 3)
  have hflip : ∀ r < 8, r ^^^ 4 = (r + 4) % 8 := by decide
  have hlow := hflip (a % 8) (Nat.mod_lt _ (by decide))
  omega

theorem swizzle_eq (odd : Bool) (a : Nat) : swizzle odd a = if odd then a / 8 * 8 + (a + 4) % 8 else a := by
  rw [swizzle, xor_four]

/-- The swizzle stays in the 64-bit word. -/
@[simp] theorem swizzle_div_eight (odd : Bool) (a : Nat) : swizzle odd a / 8 = a / 8 := by
  rw [swizzle_eq]
  split
  · omega
  · rfl

theorem swizzle_inj {odd : Bool} {a a' : Nat} (h : swizzle odd a = swizzle odd a') : a = a' := by
  rw [swizzle_eq, swizzle_eq] at h
  split at h
  · omega
  · exact h

/-! ## Cells of swizzled addresses -/

section
variable {size : PixSize}

theorem tmemStride_pos (hs : size ≠ .b4) : 0 < tmemStride size := by
  cases size
  case b4 => exact absurd rfl hs
  all_goals decide

theorem swizzle_lt_tmemSpan (odd : Bool) {a : Nat} (h : a < tmemSpan size) : swizzle odd a < tmemSpan size := by
  have hword := swizzle_div_eight odd a
  cases size
  all_goals
    simp only [tmemSpan] at h ⊢
    omega

/-- A swizzled address is a texel's where the address is. -/
theorem tmemStride_dvd_swizzle (hs : size ≠ .b4) (odd : Bool) {a : Nat} (h : tmemStride size ∣ a) :
    tmemStride size ∣ swizzle odd a := by
  rw [swizzle_eq]
  split
  next =>
    cases size
    case b4 => exact absurd rfl hs
    all_goals
      simp only [tmemStride] at h ⊢
      omega
  next => exact h

/-- Texels of a line or a run, from a 64-bit word on. -/
theorem tmemStride_dvd_texel (hs : size ≠ .b4) (w i : Nat) : tmemStride size ∣ 8 * w + i * tmemStride size := by
  have hword : tmemStride size ∣ 8 := by
    cases size
    case b4 => exact absurd rfl hs
    all_goals decide
  exact Nat.dvd_add (hword.mul_right w) (Nat.dvd_mul_left _ i)

/-- Below the span the cell is the number of the texel. -/
theorem tmemCell_of_lt {a : Nat} (h : a < tmemSpan size) : tmemCell size a = a / tmemStride size := by
  cases size
  case b4 => exact absurd h (Nat.not_lt_zero a)
  case b8 =>
    simp only [tmemSpan, tmemCell_b8, tmemStride] at h ⊢
    omega
  case b16 =>
    simp only [tmemSpan, tmemCell_b16, tmemStride] at h ⊢
    omega
  case b32 =>
    simp only [tmemSpan, tmemCell_b32, tmemStride] at h ⊢
    omega

/-- Bytes of one cell lie in one 64-bit word, up to the span. -/
theorem word_eq_of_tmemCell_eq (hs : size ≠ .b4) {a a' : Nat} (h : tmemCell size a = tmemCell size a') :
    a % tmemSpan size / 8 = a' % tmemSpan size / 8 := by
  cases size
  case b4 => exact absurd rfl hs
  case b8 =>
    rw [tmemCell_b8, tmemCell_b8] at h
    exact congrArg (· / 8) h
  case b16 =>
    simp only [tmemSpan, tmemCell_b16] at h ⊢
    omega
  case b32 =>
    simp only [tmemSpan, tmemCell_b32] at h ⊢
    omega

/-- Texel addresses below the span whose swizzles have one cell are equal, if the swizzle goes by the 64-bit word. -/
theorem eq_of_tmemCell_swizzle_eq (hs : size ≠ .b4) {o o' : Bool} {a a' : Nat} (ha : a < tmemSpan size) (ha' : a' < tmemSpan size)
    (hd : tmemStride size ∣ a) (hd' : tmemStride size ∣ a') (hword : a / 8 = a' / 8 → o = o')
    (h : tmemCell size (swizzle o a) = tmemCell size (swizzle o' a')) : a = a' := by
  rw [tmemCell_of_lt (swizzle_lt_tmemSpan o ha), tmemCell_of_lt (swizzle_lt_tmemSpan o' ha')] at h
  have hsame : swizzle o a = swizzle o' a' :=
    Nat.div_left_inj (tmemStride_dvd_swizzle hs o hd) (tmemStride_dvd_swizzle hs o' hd') |>.1 h
  obtain rfl : o = o' := hword (by rw [← swizzle_div_eight o a, hsame, swizzle_div_eight])
  exact swizzle_inj hsame

end

/-! ## The place of a texel in the pipeline (R820) -/

/-- The TMEM byte that LOAD_TILE gives texel `i` of row `row` (R500, R503). -/
def tilePlace (tl : Tile) (size : PixSize) (row i : Nat) : Nat :=
  swizzle (row % 2 == 1) (8 * tl.tmem.toNat + 8 * tl.line.toNat * row + i * tmemStride size)

theorem oddRow_natCast (row a x : Nat) : oddRow row a x = if row % 2 == 1 then a ^^^ x else a := by
  have hbit : hasBits row 1 = (row % 2 == 1) := by
    rw [hasBits, show iand (row : Int) 1 = row &&& 1 from rfl, Nat.and_one_is_mod]
    rcases Nat.mod_two_eq_zero_or_one row with h | h <;> rw [h] <;> rfl
  rw [oddRow, hbit]

theorem texelBase_natCast (tl : Tile) {row : Nat} (h : row < 256) :
    texelBase tl row = (tl.line.toNat * row + tl.tmem.toNat : Nat) := by
  have hand : iand (row : Int) 0xff = row := (Nat.and_two_pow_sub_one_eq_mod row 8).trans (Nat.mod_eq_of_lt h)
  rw [texelBase, hand]
  push_cast
  rfl

section
variable (tl : Tile) {row : Nat} (i : Nat)

/-- A load's swizzled byte, in texels of `2 ^ k` bytes and masked, is the pipeline's masked texel number with its odd-row XOR. -/
theorem swizzle_and_eq_oddRow (h : row < 256) {k m : Nat} (hk : k ≤ 3) (hm : 4 >>> k &&& m = 4 >>> k) :
    swizzle (row % 2 == 1) (8 * tl.tmem.toNat + 8 * tl.line.toNat * row + i * 2 ^ k) >>> k &&& m =
      oddRow row (iand (ishl (texelBase tl row) (3 - k) + i) m) (4 >>> k) := by
  have hpow : 2 ^ (3 - k) * 2 ^ k = 8 := by rw [← Nat.pow_add, Nat.sub_add_cancel hk]
  have hshift : (8 * tl.tmem.toNat + 8 * tl.line.toNat * row + i * 2 ^ k) >>> k =
      (tl.line.toNat * row + tl.tmem.toNat) * 2 ^ (3 - k) + i := by
    rw [Nat.shiftRight_eq_div_pow, ← hpow]
    exact Nat.div_eq_of_eq_mul_left (Nat.two_pow_pos k) (by ring)
  have hplace : iand (ishl (texelBase tl row) (3 - k) + i) m =
      ((tl.line.toNat * row + tl.tmem.toNat) * 2 ^ (3 - k) + i) &&& m := by
    rw [texelBase_natCast tl h, ishl, Nat.one_shiftLeft]
    rfl
  rw [oddRow_natCast, hplace, swizzle]
  split
  · rw [Nat.shiftRight_xor_distrib, Nat.and_xor_distrib_right, hshift, hm]
  · rw [hshift]

theorem tmemCell_tilePlace_b8 (h : row < 256) : tmemCell .b8 (tilePlace tl .b8 row i) = texelByte8 tl i row :=
  swizzle_and_eq_oddRow tl i h (k := 0) (by decide) rfl

theorem tmemCell_tilePlace_b16 (h : row < 256) : tmemCell .b16 (tilePlace tl .b16 row i) = texelHalf16 tl i row :=
  swizzle_and_eq_oddRow tl i h (k := 1) (by decide) rfl

theorem tmemCell_tilePlace_b32 (h : row < 256) : tmemCell .b32 (tilePlace tl .b32 row i) = texelHalf32 tl i row :=
  swizzle_and_eq_oddRow tl i h (k := 1) (by decide) rfl

end

/-- Settles O40: the cell of a texel under LOAD_TILE is the pipeline's place of it, in each size. -/
theorem loadAndFetchAgreeOnPlace : Obligations.LoadAndFetchAgreeOnPlace := by
  unfold Obligations.LoadAndFetchAgreeOnPlace
  intro tl row i h
  exact ⟨tmemCell_tilePlace_b8 tl i h, tmemCell_tilePlace_b16 tl i h, tmemCell_tilePlace_b32 tl i h⟩

/-! ## LOAD_TILE (R500) -/

section
variable {tl : Tile} {size : PixSize} {rows cols row row' i i' : Nat}

/-- A texel of a row that fits its line is in the line's words (R500). -/
theorem row_eq_of_word_eq {q q' : Nat} (hq : q < 8 * tl.line.toNat) (hq' : q' < 8 * tl.line.toNat)
    (h : (8 * tl.tmem.toNat + 8 * tl.line.toNat * row + q) / 8 = (8 * tl.tmem.toNat + 8 * tl.line.toNat * row' + q') / 8) :
    row = row' := by
  have hrow (r p : Nat) (hp : p < 8 * tl.line.toNat) : (tl.line.toNat * r + p / 8) / tl.line.toNat = r := by
    rw [Nat.mul_add_div (by omega), Nat.div_eq_of_lt (by omega), Nat.add_zero]
  rw [Nat.mul_assoc, Nat.mul_assoc] at h
  rw [← hrow row q hq, ← hrow row' q' hq', show tl.line.toNat * row + q / 8 = tl.line.toNat * row' + q' / 8 by omega]

/-- Different texels of a rectangle whose rows fit their lines and TMEM have different cells. -/
theorem tilePlace_inj (hs : size ≠ .b4) (hline : cols * tmemStride size ≤ 8 * tl.line.toNat)
    (hfit : 8 * tl.tmem.toNat + 8 * tl.line.toNat * rows ≤ tmemSpan size) (hrow : row < rows) (hrow' : row' < rows)
    (hi : i < cols) (hi' : i' < cols)
    (h : tmemCell size (tilePlace tl size row i) = tmemCell size (tilePlace tl size row' i')) : row = row' ∧ i = i' := by
  have hpos := tmemStride_pos hs
  have hq {j : Nat} (hj : j < cols) : j * tmemStride size < 8 * tl.line.toNat :=
    Nat.lt_of_lt_of_le (Nat.mul_lt_mul_of_pos_right hj hpos) hline
  have hlt {r j : Nat} (hr : r < rows) (hj : j < cols) :
      8 * tl.tmem.toNat + 8 * tl.line.toNat * r + j * tmemStride size < tmemSpan size := by
    have hnext := Nat.mul_le_mul_left (8 * tl.line.toNat) hr
    rw [Nat.mul_succ] at hnext
    have hj' := hq hj
    omega
  have hdvd (r j : Nat) : tmemStride size ∣ 8 * tl.tmem.toNat + 8 * tl.line.toNat * r + j * tmemStride size := by
    rw [Nat.mul_assoc, ← Nat.mul_add]
    exact tmemStride_dvd_texel hs _ j
  have haddr := eq_of_tmemCell_swizzle_eq hs (hlt hrow hi) (hlt hrow' hi') (hdvd row i) (hdvd row' i')
    (fun hword => by rw [row_eq_of_word_eq (hq hi) (hq hi') hword]) h
  obtain rfl := row_eq_of_word_eq (hq hi) (hq hi') (congrArg (· / 8) haddr)
  exact ⟨rfl, Nat.eq_of_mul_eq_mul_right hpos (Nat.add_left_cancel haddr)⟩

end

section
variable {c : Ctx} {host : HostMem} {t : Tile} {b : TileBounds} {size : PixSize} {m m' : List Host.Cell}

/-- LOAD_TILE is a loop of rows, each a loop of texels. -/
theorem loadTileTexels_eq_forE (hsize : c.regs.tiSize = size) :
    loadTileTexels c host t b m =
      forE (fun row m =>
        forE (fun i m =>
          loadTexel c.params host size (tilePlace t size row i) (texAddr c.regs (b.sl.toNat / 4 + i) (b.tl.toNat / 4 + row)) m)
          0 (texelCount b.sl b.sh) m)
        0 (texelCount b.tl b.th) m := by
  subst hsize
  rfl

/-- LOAD_TILE leaves every byte outside the cells of its texels. -/
theorem loadTileTexels_frame (hsize : c.regs.tiSize = size) (hm : tmemInv m = true)
    (h : loadTileTexels c host t b m = .ok m') {x : Nat}
    (hx : ∀ row i, row < texelCount b.tl b.th → i < texelCount b.sl b.sh →
      tmemCell size x ≠ tmemCell size (tilePlace t size row i)) : tmemRead8 m' x = tmemRead8 m x := by
  rw [loadTileTexels_eq_forE hsize] at h
  obtain ⟨-, hsame⟩ := forE_inv (Q := fun u => tmemInv u = true ∧ tmemRead8 u x = tmemRead8 m x)
    (fun row u u' _ hrow ⟨hu, hsame⟩ hr =>
      ⟨loadTexels_inv hu hr, (loadTexels_frame hu hr (fun i hi => hx row i (by omega) hi)).trans hsame⟩) ⟨hm, rfl⟩ h
  exact hsame

/-- LOAD_TILE leaves every texel in its cell: its own row's loop writes it, and later rows write other cells. -/
theorem loadTileTexels_holds (hsize : c.regs.tiSize = size) (hs : size ≠ .b4) (hm : tmemInv m = true)
    (h : loadTileTexels c host t b m = .ok m')
    (hline : texelCount b.sl b.sh * tmemStride size ≤ 8 * t.line.toNat)
    (hfit : 8 * t.tmem.toNat + 8 * t.line.toNat * texelCount b.tl b.th ≤ tmemSpan size) {row i : Nat}
    (hrow : row < texelCount b.tl b.th) (hi : i < texelCount b.sl b.sh) :
    memRead c.params host (texAddr c.regs (b.sl.toNat / 4 + i) (b.tl.toNat / 4 + row)) (texelBytes c.regs.tiSize) =
      .ok (tmemTexel m' size (tmemCell size (tilePlace t size row i))) := by
  rw [loadTileTexels_eq_forE hsize] at h
  rw [hsize]
  refine forE_lasts (Q := fun u => tmemInv u = true) (A := HoldsTexel c.params host size (tilePlace t size row i) _) h hm
    (Nat.zero_le row) (by omega) (fun _ _ _ hu hr => loadTexels_inv hu hr) (fun u u' hu hr => ?ownRow)
    (fun row' u u' hlt hrow' hu hold hr => ?laterRow)
  case ownRow =>
    exact loadTexels_holds hu hr (fun i hi i' hi' heq => (tilePlace_inj hs hline hfit hrow hrow hi hi' heq).2) hi
  case laterRow =>
    refine hold.of_loadTexels hu hr (fun i' hi' heq => ?_)
    obtain ⟨rfl, -⟩ := tilePlace_inj hs hline hfit hrow (by omega) hi hi' heq
    exact absurd hlt (Nat.lt_irrefl row)

end

/-- Settles O38: LOAD_TILE leaves every texel in its cell and every other byte as before; its cells are the
pipeline's places. -/
theorem loadTileLandsWhereTexelsAreRead : Obligations.LoadTileLandsWhereTexelsAreRead := by
  unfold Obligations.LoadTileLandsWhereTexelsAreRead
  intro s t n b hm h tl rows read hrows
  simp only [exec, execLoadTile] at h
  obtain ⟨-, m, hcopy, rfl⟩ := runLoad_next h
  refine ⟨⟨fun hsize a ha hout => ?frame8, fun hsize k hk hout => ?frame16, fun hsize k hk hout => ?frame32⟩,
    fun hsize hline hfit row i hrow hi => ?texel8, fun hsize hline hfit row i hrow hi => ?texel16,
    fun hsize hline hfit row i hrow hi => ?texel32⟩
  case frame8 =>
    refine loadTileTexels_frame hsize hm hcopy (fun row i hrow hi => ?_)
    rw [tmemCell_tilePlace_b8 tl i (by omega), tmemCell_b8, Nat.mod_eq_of_lt ha]
    exact hout row i hrow hi
  case frame16 =>
    refine tmemRead16_congr (fun x hx => loadTileTexels_frame hsize hm hcopy (fun row i hrow hi => ?_))
    rw [tmemCell_tilePlace_b16 tl i (by omega), tmemCell_b16, hx, Nat.mod_eq_of_lt hk]
    exact hout row i hrow hi
  case frame32 =>
    refine tmemRead16_congr (fun x hx => loadTileTexels_frame hsize hm hcopy (fun row i hrow hi => ?_))
    rw [tmemCell_tilePlace_b32 tl i (by omega), tmemCell_b32, hx]
    exact hout row i hrow hi
  case texel8 =>
    rw [← tmemCell_tilePlace_b8 tl i (by omega)]
    exact loadTileTexels_holds (t := tl) hsize (by decide) hm hcopy (by rw [tmemStride]; omega) hfit hrow hi
  case texel16 =>
    rw [← tmemCell_tilePlace_b16 tl i (by omega)]
    exact loadTileTexels_holds (t := tl) hsize (by decide) hm hcopy (by rw [tmemStride]; omega)
      (show _ ≤ 4096 by linarith) hrow hi
  case texel32 =>
    rw [← tmemCell_tilePlace_b32 tl i (by omega)]
    exact loadTileTexels_holds (t := tl) hsize (by decide) hm hcopy (by rw [tmemStride]; omega)
      (show _ ≤ 2048 by linarith) hrow hi

/-! ## LOAD_BLOCK (R501) -/

/-- Whether the row counter of the 64-bit word at offset `off` is odd (R501). -/
def blockOdd (dxt : BitVec 12) (off : Nat) : Bool := ((off >>> 3) * dxt.toNat) >>> 11 % 2 == 1

/-- The TMEM byte that LOAD_BLOCK gives texel `i` (R501, R503). -/
def blockPlace (t : Tile) (dxt : BitVec 12) (size : PixSize) (i : Nat) : Nat :=
  swizzle (blockOdd dxt (i * tmemStride size)) (8 * t.tmem.toNat + i * tmemStride size)

section
variable {c : Ctx} {host : HostMem} {t : Tile} {sl tl sh dxt : BitVec 12} {size : PixSize} {m m' : List Host.Cell} {i n : Nat}

/-- A texel of a run that fits TMEM, before the swizzle. -/
theorem blockOffset_lt (hs : size ≠ .b4) (hfit : 8 * t.tmem.toNat + n * tmemStride size ≤ tmemSpan size) (hi : i < n) :
    8 * t.tmem.toNat + i * tmemStride size < tmemSpan size := by
  have hlt := Nat.mul_lt_mul_of_pos_right hi (tmemStride_pos hs)
  omega

/-- Different texels of a run that fits TMEM have different cells. -/
theorem blockPlace_inj (hs : size ≠ .b4) (hfit : 8 * t.tmem.toNat + n * tmemStride size ≤ tmemSpan size) {j : Nat} (hi : i < n)
    (hj : j < n) (h : tmemCell size (blockPlace t dxt size i) = tmemCell size (blockPlace t dxt size j)) : i = j := by
  have hword (off off' : Nat) (hoff : (8 * t.tmem.toNat + off) / 8 = (8 * t.tmem.toNat + off') / 8) :
      blockOdd dxt off = blockOdd dxt off' := by
    have hsame : off >>> 3 = off' >>> 3 := by
      rw [Nat.shiftRight_eq_div_pow, Nat.shiftRight_eq_div_pow]
      omega
    rw [blockOdd, hsame, blockOdd]
  have haddr := eq_of_tmemCell_swizzle_eq hs (blockOffset_lt hs hfit hi) (blockOffset_lt hs hfit hj)
    (tmemStride_dvd_texel hs _ i) (tmemStride_dvd_texel hs _ j) (hword _ _) h
  exact Nat.eq_of_mul_eq_mul_right (tmemStride_pos hs) (Nat.add_left_cancel haddr)

/-- LOAD_BLOCK is a loop of texels. -/
theorem loadBlockTexels_eq_forE (hsize : c.regs.tiSize = size) :
    loadBlockTexels c host t sl tl sh dxt m =
      forE (fun i m => loadTexel c.params host size (blockPlace t dxt size i) (texAddr c.regs (sl.toNat + i) tl.toNat) m)
        0 (sh.toNat + 1 - sl.toNat) m := by
  subst hsize
  rfl

/-- LOAD_BLOCK leaves the bytes outside the 64-bit words of its run. -/
theorem loadBlockTexels_frame (hsize : c.regs.tiSize = size) (hs : size ≠ .b4) (hm : tmemInv m = true)
    (h : loadBlockTexels c host t sl tl sh dxt m = .ok m')
    (hfit : 8 * t.tmem.toNat + (sh.toNat + 1 - sl.toNat) * tmemStride size ≤ tmemSpan size) {x : Nat}
    (hx : x % tmemSpan size < 8 * t.tmem.toNat ∨
      8 * t.tmem.toNat + ((sh.toNat + 1 - sl.toNat) * tmemStride size + 7) / 8 * 8 ≤ x % tmemSpan size) :
    tmemRead8 m' x = tmemRead8 m x := by
  rw [loadBlockTexels_eq_forE hsize] at h
  refine loadTexels_frame hm h (fun i hi hcell => ?_)
  have hword := word_eq_of_tmemCell_eq hs hcell
  rw [blockPlace, Nat.mod_eq_of_lt (swizzle_lt_tmemSpan _ (blockOffset_lt hs hfit hi)), swizzle_div_eight] at hword
  have hlt := Nat.mul_lt_mul_of_pos_right hi (tmemStride_pos hs)
  omega

/-- LOAD_BLOCK leaves every texel in its cell. -/
theorem loadBlockTexels_holds (hsize : c.regs.tiSize = size) (hs : size ≠ .b4) (hm : tmemInv m = true)
    (h : loadBlockTexels c host t sl tl sh dxt m = .ok m')
    (hfit : 8 * t.tmem.toNat + (sh.toNat + 1 - sl.toNat) * tmemStride size ≤ tmemSpan size)
    (hi : i < sh.toNat + 1 - sl.toNat) :
    memRead c.params host (texAddr c.regs (sl.toNat + i) tl.toNat) (texelBytes c.regs.tiSize) =
      .ok (tmemTexel m' size (blockPlace t dxt size i / tmemStride size)) := by
  rw [loadBlockTexels_eq_forE hsize] at h
  have hold := loadTexels_holds hm h (fun i hi j hj => blockPlace_inj hs hfit hi hj) hi
  rw [HoldsTexel, blockPlace, tmemCell_of_lt (swizzle_lt_tmemSpan _ (blockOffset_lt hs hfit hi)), ← blockPlace] at hold
  rw [hsize]
  exact hold

/-- The byte of a texel of LOAD_BLOCK as R501 writes it. -/
theorem blockPlace_eq (t : Tile) (dxt : BitVec 12) (size : PixSize) (i : Nat) :
    blockPlace t dxt size i =
      if i * tmemStride size / 8 * dxt.toNat / 2048 % 2 = 1 then (8 * t.tmem.toNat + i * tmemStride size) ^^^ 4
      else 8 * t.tmem.toNat + i * tmemStride size := by
  simp only [blockPlace, blockOdd, swizzle, Nat.shiftRight_eq_div_pow, beq_iff_eq]

end

/-- Settles O39: LOAD_BLOCK leaves every texel in its cell, and every byte outside the run's words as before. -/
theorem loadBlockLandsInOneRun : Obligations.LoadBlockLandsInOneRun := by
  unfold Obligations.LoadBlockLandsInOneRun
  intro s t n sl tl sh dxt hm h base count place read
  simp only [exec, execLoadBlock] at h
  obtain ⟨-, m, hcopy, rfl⟩ := runLoad_next h
  have hplace (size : PixSize) (i : Nat) : blockPlace (s.regs.getTile n) dxt size i = place (i * tmemStride size) :=
    blockPlace_eq _ dxt size i
  refine ⟨fun hsize hfit => ⟨fun i hi => ?texel8, fun a ha hout => ?frame8⟩,
    fun hsize hfit => ⟨fun i hi => ?texel16, fun a ha hout => ?frame16⟩,
    fun hsize hfit => ⟨fun i hi => ?texel32, fun a ha hout => ?frame32⟩⟩
  case texel8 =>
    have hold := loadBlockTexels_holds hsize (by decide) hm hcopy (by rw [tmemStride, tmemSpan]; omega) hi
    rw [hplace, tmemStride, Nat.mul_one, Nat.div_one] at hold
    exact hold
  case texel16 | texel32 =>
    have hold := loadBlockTexels_holds hsize (by decide) hm hcopy (by rw [tmemStride, tmemSpan]; omega) hi
    rw [hplace, tmemStride, Nat.mul_comm i] at hold
    exact hold
  case frame8 | frame16 | frame32 =>
    refine loadBlockTexels_frame hsize (by decide) hm hcopy (by rw [tmemStride, tmemSpan]; omega) ?_
    rw [tmemStride, tmemSpan]
    omega

end Sys2Proof.Machine
end

section
/-! The edge walk's gradients (R612, R1013), and that a rendering command completes wherever it can draw. -/

namespace Sys2Proof.Machine

open Sys2Proof.Config

/-- Settles O27: the command is the primitive of its parameter block, which answers where it can draw. -/
theorem renderingCommandsComplete : Obligations.RenderingCommandsComplete := by
  unfold Obligations.RenderingCommandsComplete
  intro i P s hparams hdraw hlatch
  obtain ⟨p, hrender, hrun⟩ := runPrimitive_total hdraw hlatch
  exact ⟨p, hrender, by rw [exec_primitive hparams, hrun]; rfl⟩

/-! ## Masks on words (R13) -/

/-- What a word is without its bits under a mask: those under the mask's complement. -/
theorem eq_and_not_of_add_and {w : Nat} {x y z : BitVec w} (h : x + (y &&& z) = y) : x = y &&& ~~~z := by
  have hparts : (y &&& ~~~z) + (y &&& z) = y := by
    have hdisjoint : (y &&& ~~~z) &&& (y &&& z) = 0#w := by
      ext i
      cases hy : y[i] <;> cases hz : z[i] <;> simp [hy, hz]
    rw [BitVec.add_eq_or_of_and_eq_zero _ _ hdisjoint]
    ext i
    cases hy : y[i] <;> cases hz : z[i] <;> simp [hy, hz]
  exact BitVec.add_right_inj (y &&& z) |>.1 (by rw [BitVec.add_comm, h, BitVec.add_comm, hparts])

/-- An integer's bits under a mask are those of its word. -/
theorem ofNat_iand (w : Nat) (v : Int) (m : Nat) : BitVec.ofNat w (iand v m) = BitVec.ofInt w v &&& BitVec.ofNat w m := by
  cases v with
  | ofNat a => simp [iand]
  | negSucc b =>
    have hparts : BitVec.ofNat w (m - (m &&& b)) + (BitVec.ofNat w m &&& BitVec.ofNat w b) = BitVec.ofNat w m := by
      rw [← BitVec.ofNat_and, ← BitVec.ofNat_add, Nat.sub_add_cancel Nat.and_le_left]
    rw [iand, eq_and_not_of_add_and hparts, BitVec.ofInt_negSucc_eq_not_ofNat, BitVec.and_comm]

/-- An integer with a mask's bits cleared, as a word. -/
theorem ofInt_clearBits (w : Nat) (v : Int) (m : Nat) :
    BitVec.ofInt w (clearBits v m) = BitVec.ofInt w v &&& ~~~BitVec.ofNat w m := by
  refine eq_and_not_of_add_and ?_
  rw [← ofNat_iand, ← BitVec.ofInt_natCast, ← BitVec.ofInt_add, clearBits, Int.sub_add_cancel]

theorem ofInt_clearBits_toInt (v : BitVec 32) (m : Nat) :
    BitVec.ofInt 32 (clearBits v.toInt m) = v &&& ~~~BitVec.ofNat 32 m := by
  rw [ofInt_clearBits, BitVec.ofInt_toInt]

/-- `v >> n` of an integer is the quotient by `2 ^ n`, rounded down (R13). -/
theorem shiftRight_eq_div (v : Int) (n : Nat) : v >>> (OfNat.ofNat n : Int) = v / 2 ^ (OfNat.ofNat n : Nat) := by
  have hnat : v >>> (OfNat.ofNat n : Int) = v >>> n := Int.shiftRight_natCast_right v n
  rw [hnat, Int.shiftRight_eq_div_pow, Nat.cast_pow]
  rfl

/-- The bits of a word from `lo` on, by division. -/
theorem ofInt_toInt_div (v : BitVec 32) {lo len : Nat} (h : lo + len ≤ 32) :
    BitVec.ofInt len (v.toInt / 2 ^ lo) = v.extractLsb' lo len := by
  obtain ⟨b, hb⟩ : ∃ b : Int, v.toInt = v.toNat + b * 2 ^ (32 - lo - len) * 2 ^ len * 2 ^ lo := by
    have hpow : (2 : Int) ^ (32 - lo - len) * 2 ^ len * 2 ^ lo = 2 ^ 32 := by
      rw [← pow_add, ← pow_add, show 32 - lo - len + len + lo = 32 by omega]
    refine ⟨if v.toNat * 2 < 2 ^ 32 then 0 else -1, ?_⟩
    rw [BitVec.toInt_eq_toNat_cond, mul_assoc, mul_assoc, ← mul_assoc (2 ^ (32 - lo - len)), hpow]
    split <;> simp_all <;> omega
  apply BitVec.eq_of_toNat_eq
  rw [BitVec.toNat_ofInt, hb,
    Int.add_mul_ediv_right _ _ (by positivity), Nat.cast_pow, Nat.cast_ofNat, Int.add_mul_emod_self_right,
    BitVec.extractLsb'_toNat, Nat.shiftRight_eq_div_pow]
  norm_cast

/-- A gradient narrowed as R612 writes it is a sign-extended field of its word. -/
theorem ofInt_sext_toInt_div (v : BitVec 32) {lo len : Nat} (h : lo + len ≤ 32) :
    BitVec.ofInt 32 (sext len (v.toInt / 2 ^ lo)) = (v.extractLsb' lo len).signExtend 32 := by
  rw [sext, ofInt_toInt_div v h, BitVec.signExtend]

/-- A number's bits from `i` on, under a mask that reaches to its top. -/
theorem and_high_mask {x i n : Nat} (h : x < 2 ^ (i + n)) : x &&& (2 ^ n - 1) <<< i = x / 2 ^ i * 2 ^ i := by
  apply Nat.eq_of_testBit_eq
  intro j
  rw [Nat.testBit_and, Nat.testBit_shiftLeft, Nat.testBit_two_pow_sub_one, Nat.testBit_mul_two_pow, Nat.testBit_div_two_pow]
  by_cases hlow : i ≤ j
  · rw [Nat.sub_add_cancel hlow]
    by_cases htop : j - i < n
    · simp [hlow, htop]
    · have hzero : x.testBit j = false :=
        Nat.testBit_lt_two_pow (lt_of_lt_of_le h (Nat.pow_le_pow_right (by decide) (by omega)))
      simp [hzero]
  · simp [hlow]

theorem and_0xffff (a : Nat) : a &&& 0xffff = a % 65536 := Nat.and_two_pow_sub_one_eq_mod a 16
theorem and_0x7fff (a : Nat) : a &&& 0x7fff = a % 32768 := Nat.and_two_pow_sub_one_eq_mod a 15

/-- The integer half of a depth gradient (R612). -/
theorem iand_shiftRight_toInt (v : BitVec 32) : iand (v.toInt >>> 16) 0xffff = v.toNat / 65536 := by
  rw [shiftRight_eq_div]
  have hword := congrArg BitVec.toNat (ofNat_iand 16 (v.toInt / 2 ^ 16) 0xffff)
  have hlt : iand (v.toInt / 2 ^ 16) 0xffff < 2 ^ 16 := iand_lt _ (by decide)
  rw [ofInt_toInt_div v (by decide), BitVec.toNat_ofNat, Nat.mod_eq_of_lt hlt, BitVec.toNat_and,
    BitVec.extractLsb'_toNat, Nat.shiftRight_eq_div_pow] at hword
  rw [hword]
  simp only [BitVec.toNat_ofNat, Nat.reducePow, Nat.reduceMod, and_0xffff]
  omega

/-- The one's-complement magnitude of a depth gradient, by its word (R612). -/
theorem dzMagnitude_toInt (v : BitVec 32) :
    dzMagnitude v.toInt = if v.msb then 32767 - v.toNat / 65536 % 32768 else v.toNat / 65536 := by
  have hsign : v.toNat / 65536 &&& 0x8000 = v.toNat / 65536 / 32768 * 32768 := and_high_mask (i := 15) (n := 1) (by omega)
  have hmsb : v.toNat / 65536 &&& 0x8000 ≠ 0 ↔ v.msb = true := by
    rw [hsign, BitVec.msb_eq_decide, decide_eq_true_eq]
    omega
  simp only [dzMagnitude, iand_shiftRight_toInt, hmsb, and_0x7fff]

theorem dzMagnitude_lt (v : BitVec 32) : dzMagnitude v.toInt < 32768 := by
  rw [dzMagnitude_toInt, BitVec.msb_eq_decide]
  simp only [decide_eq_true_eq]
  split <;> omega

/-- R1013, its first test as a bound. -/
theorem normalizeDzpix_eq {sum : Nat} (h : sum < 65536) :
    normalizeDzpix sum = if 16384 ≤ sum then 32768 else if sum = 0 then 1 else 2 ^ (Nat.log2 sum + 1) := by
  have hmask : sum &&& 0xc000 = sum / 16384 * 16384 := and_high_mask (i := 14) (n := 2) h
  have hhigh : sum &&& 0xc000 ≠ 0 ↔ 16384 ≤ sum := by omega
  simp only [normalizeDzpix, hhigh]

theorem normalizeDzpix_lt {sum : Nat} (h : sum < 65536) : normalizeDzpix sum < 65536 := by
  rw [normalizeDzpix_eq h]
  split
  · decide
  · split
    · decide
    next hlow hne =>
      have hlog : Nat.log2 sum < 14 := (Nat.log2_lt hne).2 (by omega)
      calc 2 ^ (Nat.log2 sum + 1) ≤ 2 ^ 14 := Nat.pow_le_pow_right (by decide) (by omega)
        _ < 65536 := by decide

/-- The low five bits that spans_d clears do not reach the fields of spans_cd (R612). -/
theorem extractLsb'_clear_five (v : BitVec 32) : (v &&& ~~~0x1f#32).extractLsb' 14 13 = v.extractLsb' 14 13 := by
  rw [BitVec.extractLsb'_and, show (~~~0x1f#32).extractLsb' 14 13 = BitVec.allOnes 13 by decide, BitVec.and_allOnes]

/-- Settles O33: each gradient is a field of its coefficient's word, and the two magnitudes stay below 2^15, so that their sum is
within R1013's table. -/
theorem walkLeavesGradients : Obligations.WalkLeavesGradients := by
  unfold Obligations.WalkLeavesGradients
  intro c p e h x z P w colour depth mag sum
  refine ⟨?spansD, rfl, rfl, rfl, ?dzpix, ?gradients⟩
  case spansD =>
    simp only [w, edgeWalk, spansDOf, P, triParams, attrsOf, Attrs.map, ofInt_clearBits_toInt, BitVec.ofInt_toInt]
    cases c.params.spansDz <;> rfl
  case dzpix =>
    have hsum : dzMagnitude z.dy.toInt + dzMagnitude z.dx.toInt = sum := by
      rw [dzMagnitude_toInt, dzMagnitude_toInt]
    have hlt : sum < 65536 := by
      have := dzMagnitude_lt z.dy
      have := dzMagnitude_lt z.dx
      omega
    calc w.spansDzpix.toNat
        = normalizeDzpix ((dzMagnitude z.dy.toInt + dzMagnitude z.dx.toInt) &&& 0xffff) % 65536 := rfl
      _ = normalizeDzpix sum := by
        rw [hsum, and_0xffff, Nat.mod_eq_of_lt hlt, Nat.mod_eq_of_lt (normalizeDzpix_lt hlt)]
      _ = _ := normalizeDzpix_eq hlt
  case gradients =>
    have hfield (v : BitVec 32) : BitVec.ofInt 32 (sext 13 (v.toInt >>> 14)) = colour v := by
      rw [shiftRight_eq_div, ofInt_sext_toInt_div v (by decide)]
    have hdepth (v : BitVec 32) : BitVec.ofInt 32 (sext 22 (v.toInt >>> 10)) = depth v := by
      rw [shiftRight_eq_div, ofInt_sext_toInt_div v (by decide)]
    have hcleared (v : BitVec 32) : colour (v &&& ~~~0x1f#32) = colour v := by
      simp only [colour]
      rw [extractLsb'_clear_five]
    simp only [edgeGradients, spansDyOf, spansCdOf, spansDOf, P, triParams, attrsOf, Attrs.map, ofInt_clearBits_toInt,
      BitVec.ofInt_toInt, hfield, hdepth, hcleared]
    rfl

end Sys2Proof.Machine
end

section
/-! The edge walk's scanlines (42_primitives.md sections 2 and 3): a scanline's record is closed at the last of its four sub-rows
and written by no other scanline's, so it is read off those four. A primitive with an empty vertical range closes no valid one. -/

namespace Sys2Proof.Machine

open Sys2Proof.Config

/-! ## Sub-rows and scanlines -/

theorem iand_three (v : Int) : (iand v 3 : Int) = v % 4 := by
  have hmod := iand_mod_four v (m := 3) rfl
  have hlt : iand v 3 < 4 := iand_lt v (by decide)
  omega

/-- Every sub-row's scanline is its quotient by four (R610). -/
theorem shiftRight_two (k : Int) : k >>> 2 = k / 4 := shiftRight_eq_div k 2

theorem clearBits_three (v : Int) : clearBits v 3 = v / 4 * 4 := by
  have := iand_three v
  rw [clearBits]
  omega

theorem setBits_three (v : Int) : setBits v 3 = v / 4 * 4 + 3 := by
  have := iand_three v
  rw [setBits]
  omega

/-- The bit above a signed number's magnitude is its sign (R620). -/
theorem hasBits_sign {i : Nat} {v : Int} (hlo : -2 ^ i ≤ v) (hhi : v < 2 ^ i) : hasBits v (2 ^ i) = decide (v < 0) := by
  cases v with
  | ofNat a =>
    have ha : a < 2 ^ i := by
      rw [Int.ofNat_eq_natCast] at hhi
      exact_mod_cast hhi
    simp [hasBits, iand, Nat.and_two_pow, Nat.testBit_lt_two_pow ha]
  | negSucc b =>
    have hb : b < 2 ^ i := by
      have : -(2 : Int) ^ i ≤ -b - 1 := by simpa [Int.negSucc_eq] using hlo
      exact_mod_cast (by omega : (b : Int) < 2 ^ i)
    simp [hasBits, iand, Nat.and_comm (2 ^ i), Nat.and_two_pow, Nat.testBit_lt_two_pow hb, Int.negSucc_lt_zero]

/-! ## The loop -/

theorem forP_add {σ : Type} (f : Nat → σ → σ) :
    ∀ (m n i : Nat) (s : σ), forP f i (m + n) s = forP f (i + m) n (forP f i m s)
  | 0, n, i, s => by simp [forP]
  | m + 1, n, i, s => by
    rw [show m + 1 + n = m + n + 1 by omega, forP, forP_add f m n (i + 1), forP, show i + 1 + m = i + (m + 1) by omega]

/-- The span buffer after a change of one record (R121, R624). -/
theorem sparseGet_spanUpdate {P : Params} {m : List (Nat × Span)} (h : spanInv P m = true) (i : Int) (f : Span → Span)
    (j : Nat) :
    sparseGet Span.zero (spanUpdate P m i f) j =
      if i = j ∧ j < P.maxScanlines then f (sparseGet Span.zero m j) else sparseGet Span.zero m j := by
  obtain ⟨hwf, -⟩ := spanInv_iff.1 h
  unfold spanUpdate
  split
  · rw [sparseGet_put_some hwf]
    by_cases hij : i = j
    · rw [if_pos (by omega), if_pos (by omega), hij, Int.toNat_natCast]
    · rw [if_neg (by omega), if_neg (by omega)]
  · rw [if_neg (by omega)]

theorem spanAt_natCast {P : Params} {w : Walk} {j : Nat} (h : j < P.maxScanlines) :
    spanAt P w j = sparseGet Span.zero w.span j := by
  rw [spanAt, if_pos (by omega), Int.toNat_natCast]

/-! ## One sub-row (R610) -/

/-- What sub-row `k` starts from: the minor edge switched at the middle vertex, the line's accumulators reset at its first sub-row
(R611, R617). -/
def enterRow (e : WalkEnv) (k : Int) (a : WalkAcc) : WalkAcc := resetLine e.P.flip (iand k 3) (switchMinor e.P k a)

@[simp] theorem enterRow_span (e : WalkEnv) (k : Int) (a : WalkAcc) : (enterRow e k a).span = a.span := by
  unfold enterRow resetLine switchMinor
  split <;> split <;> rfl

theorem enterRow_first (e : WalkEnv) {k : Int} (h : k % 4 = 0) (a : WalkAcc) :
    enterRow e k a =
      { switchMinor e.P k a with
          allover := true, allunder := true, allinval := true,
          extMaj := if e.P.flip then 0xfff else 0, extMin := if e.P.flip then 0 else 0xfff } := by
  have := iand_three k
  rw [enterRow, resetLine, if_pos (by omega)]

theorem enterRow_later (e : WalkEnv) {k : Int} (h : k % 4 ≠ 0) (a : WalkAcc) : enterRow e k a = switchMinor e.P k a := by
  have := iand_three k
  rw [enterRow, resetLine, if_neg (by omega)]

theorem walkRow_eq (c : Ctx) (e : WalkEnv) (k : Int) (a : WalkAcc) :
    walkRow c e k a =
      advanceRow e (iand k 3) (if k ≥ e.y.yhclose then rangeRow c e k (enterRow e k a) else enterRow e k a) := rfl

/-- A sub-row above the first recorded scanline records nothing (R610). -/
theorem walkRow_above {c : Ctx} {e : WalkEnv} {k : Int} (h : k < e.y.yhclose) (a : WalkAcc) :
    walkRow c e k a = advanceRow e (iand k 3) (enterRow e k a) := by
  rw [walkRow_eq, if_neg (by omega)]

theorem walkRow_inRange {c : Ctx} {e : WalkEnv} {k : Int} (h : e.y.yhclose ≤ k) (a : WalkAcc) :
    walkRow c e k a = advanceRow e (iand k 3) (rangeRow c e k (enterRow e k a)) := by
  rw [walkRow_eq, if_pos h]

/-- The line accumulators and edges after a recorded sub-row, and its record's change, apart (R614 to R618). -/
theorem walkRow_accum {c : Ctx} {e : WalkEnv} {k : Int} (h : e.y.yhclose ≤ k) (a : WalkAcc) :
    ∃ sp, walkRow c e k a =
      advanceRow e (iand k 3)
        { accumLine e.P.flip (subInvalid e k (enterRow e k a)) (subBound c.regs.clip (enterRow e k a).xmaj)
            (subBound c.regs.clip (enterRow e k a).xmin) (enterRow e k a) with span := sp } :=
  ⟨_, walkRow_inRange h a⟩

/-- A sub-row writes its own scanline's record alone. -/
theorem walkRow_record_of_ne {c : Ctx} {e : WalkEnv} {k : Int} {a : WalkAcc} (hspan : spanInv c.params a.span = true) {j : Nat}
    (hne : k / 4 ≠ j) : sparseGet Span.zero (walkRow c e k a).span j = sparseGet Span.zero a.span j := by
  rcases lt_or_ge k e.y.yhclose with h | h
  · rw [walkRow_above h, advanceRow, enterRow_span]
  · rw [walkRow_inRange h, advanceRow, rangeRow]
    simp only [accumLine, enterRow_span, shiftRight_two]
    rw [sparseGet_spanUpdate hspan, if_neg (fun hk => hne hk.1)]

/-- A scanline's last sub-row closes its record with the line's accumulators (R617, R618). -/
theorem walkRow_closes {c : Ctx} {e : WalkEnv} {j : Nat} {a : WalkAcc} (hspan : spanInv c.params a.span = true)
    (hj : j < c.params.maxScanlines) (h : e.y.yhclose ≤ 4 * j + 3) :
    ∃ sp, sparseGet Span.zero (walkRow c e (4 * j + 3) a).span j = closeLine c.regs j (walkRow c e (4 * j + 3) a) sp := by
  have hspix : iand (4 * j + 3 : Int) 3 = 3 := by
    have := iand_three (4 * j + 3)
    omega
  have hline : (4 * j + 3 : Int) >>> 2 = j := by
    rw [shiftRight_two]
    omega
  rw [walkRow_inRange h, hspix]
  simp only [advanceRow, rangeRow, accumLine, enterRow_span, hspix, hline, if_true]
  rw [sparseGet_spanUpdate hspan, if_pos ⟨rfl, hj⟩]
  exact ⟨_, rfl⟩

/-! ## The walk -/

/-- What is fixed for the walk of a primitive (R610, R613, R620). -/
def walkEnv (c : Ctx) (P : EdgeParams) : WalkEnv := { P := P, y := yRange c.regs P, offs := ewOffsets c P }

/-- What a walk starts from (R611, R621). -/
def walkStart (c : Ctx) (P : EdgeParams) : WalkAcc :=
  { xmaj := evenX P.xh, xmin := evenX P.xm, xminInc := quarterSlope P.dxmdy, acc := P.v, allover := true,
    allunder := true, allinval := true, extMaj := 0, extMin := 0, span := markEnd c P (yRange c.regs P) c.walk.span }

theorem walkSpans_eq (c : Ctx) (P : EdgeParams) :
    walkSpans c P =
      (forP (fun i a => walkRow c (walkEnv c P) (clearBits P.yh 3 + i) a) 0
        (ylFar P (yRange c.regs P) + 1 - clearBits P.yh 3).toNat (walkStart c P)).span := rfl

theorem walkStart_span_inv {c : Ctx} (P : EdgeParams) (h : spanInv c.params c.walk.span = true) :
    spanInv c.params (walkStart c P).span = true := by
  simp only [walkStart, markEnd]
  split
  · exact spanUpdate_inv _ _ h
  · exact h

/-- The four sub-rows of scanline `j`. -/
def lineRows (c : Ctx) (e : WalkEnv) (j : Int) (a : WalkAcc) : WalkAcc :=
  walkRow c e (4 * j + 3) (walkRow c e (4 * j + 2) (walkRow c e (4 * j + 1) (walkRow c e (4 * j) a)))

/-- The record that a walk leaves of a scanline it covers from its first sub-row to its last: the one its own four sub-rows close,
from accumulators of which every property holds that the walk begins with and each sub-row keeps. -/
theorem walkSpans_record {c : Ctx} {P : EdgeParams} {j : Nat} {I : WalkAcc → Prop}
    (hspan : spanInv c.params c.walk.span = true) (hj : j < c.params.maxScanlines) (hfirst : clearBits P.yh 3 ≤ 4 * j)
    (hclose : (yRange c.regs P).yhclose ≤ 4 * j) (hlast : 4 * j + 3 ≤ ylFar P (yRange c.regs P))
    (hstart : I (walkStart c P)) (hrow : ∀ k a, I a → I (walkRow c (walkEnv c P) k a)) :
    ∃ a sp, I a ∧ spanAt c.params (edgeWalk c P).walk j = closeLine c.regs j (lineRows c (walkEnv c P) j a) sp := by
  have hyh := clearBits_three P.yh
  generalize hstartRow : clearBits P.yh 3 = k at hfirst hyh
  obtain ⟨m, hm⟩ : ∃ m : Nat, k + m = 4 * j := ⟨(4 * j - k).toNat, by omega⟩
  obtain ⟨r, hr⟩ : ∃ r : Nat, (ylFar P (yRange c.regs P) + 1 - k).toNat = m + (4 + r) :=
    ⟨(ylFar P (yRange c.regs P) - (4 * j + 3)).toNat, by omega⟩
  let f := fun (i : Nat) a => walkRow c (walkEnv c P) (k + i) a
  obtain ⟨hI, hinv⟩ : I (forP f 0 m (walkStart c P)) ∧ spanInv c.params (forP f 0 m (walkStart c P)).span = true :=
    forP_inv (Q := fun a => I a ∧ spanInv c.params a.span = true)
      (fun _ _ _ _ ⟨ha, hs⟩ => ⟨hrow _ _ ha, walkRow_span_inv _ _ hs⟩) ⟨hstart, walkStart_span_inv P hspan⟩
  have hwalk : (edgeWalk c P).walk.span = (forP f (m + 4) r (forP f m 4 (forP f 0 m (walkStart c P)))).span := by
    simp only [edgeWalk]
    rw [walkSpans_eq, hstartRow, hr, forP_add, forP_add, Nat.zero_add]
  generalize forP f 0 m (walkStart c P) = a at hI hinv hwalk
  have hline : forP f m 4 a = lineRows c (walkEnv c P) j a := by
    have h0 : k + (m : Int) = 4 * j := hm
    have h1 : k + ((m + 1 : Nat) : Int) = 4 * j + 1 := by omega
    have h2 : k + ((m + 1 + 1 : Nat) : Int) = 4 * j + 2 := by omega
    have h3 : k + ((m + 1 + 1 + 1 : Nat) : Int) = 4 * j + 3 := by omega
    simp only [forP, f, lineRows, h0, h1, h2, h3]
  have hrows : spanInv c.params (lineRows c (walkEnv c P) j a).span = true :=
    walkRow_span_inv _ _ (walkRow_span_inv _ _ (walkRow_span_inv _ _ (walkRow_span_inv _ _ hinv)))
  obtain ⟨sp, hsp⟩ : ∃ sp, sparseGet Span.zero (lineRows c (walkEnv c P) j a).span j = closeLine c.regs j _ sp :=
    walkRow_closes (walkRow_span_inv _ _ (walkRow_span_inv _ _ (walkRow_span_inv _ _ hinv))) hj
      (by simp only [walkEnv]; omega)
  have hrest : sparseGet Span.zero (forP f (m + 4) r (forP f m 4 a)).span j =
      sparseGet Span.zero (lineRows c (walkEnv c P) j a).span j :=
    (forP_inv (Q := fun b : WalkAcc => spanInv c.params b.span = true ∧ sparseGet Span.zero b.span j = _)
      (fun i b hi _ ⟨hb, hrec⟩ => ⟨walkRow_span_inv _ _ hb, by rw [walkRow_record_of_ne hb (by omega), hrec]⟩)
      ⟨hline ▸ hrows, by rw [hline]⟩).2
  exact ⟨a, sp, hI, by rw [spanAt_natCast hj, hwalk, hrest, hsp]; rfl⟩

/-! ## The vertical range (R620, R622) -/

/-- The limits of a primitive are signed numbers of 14 bits (R318, R630). -/
theorem edgeParamsOf_limits {ct : CycleType} {i : Instr} {P : EdgeParams} (h : edgeParamsOf ct i = some P) :
    (-2 ^ 13 ≤ P.yh ∧ P.yh < 2 ^ 13) ∧ -2 ^ 13 ≤ P.yl ∧ P.yl < 2 ^ 13 := by
  have htri (v : BitVec 14) : -2 ^ 13 ≤ v.toInt ∧ v.toInt < 2 ^ 13 := ⟨BitVec.le_toInt v, BitVec.toInt_lt⟩
  have hrect (v : BitVec 12) : (-2 ^ 13 : Int) ≤ (v.toNat : Int) ∧ (v.toNat : Int) < 2 ^ 13 := by
    have := v.isLt
    omega
  have hrectYl (v : BitVec 12) : (-2 ^ 13 : Int) ≤ (rectYl ct v : Int) ∧ (rectYl ct v : Int) < 2 ^ 13 := by
    have := v.isLt
    rw [rectYl_eq]
    split <;> omega
  cases i <;> simp only [edgeParamsOf, Option.some.injEq, reduceCtorEq] at h <;> subst h
  case texRect | texRectFlip | fillRect => exact ⟨hrect _, hrectYl _⟩
  all_goals exact ⟨htri _, htri _⟩

/-- A primitive's range begins at its own top or below it. -/
theorem le_yhlimit {r : Regs} {P : EdgeParams} (h : -2 ^ 13 ≤ P.yh ∧ P.yh < 2 ^ 13) : P.yh ≤ (yRange r P).yhlimit := by
  have hsign : hasBits P.yh 0x2000 = decide (P.yh < 0) := hasBits_sign h.1 h.2
  simp only [yRange, hsign, decide_eq_true_eq]
  split
  · omega
  · split
    · exact le_rfl
    · split <;> omega

/-- Under the clip rectangle 0 every range is empty (R1204). -/
theorem yRange_empty_of_clip_zero {r : Regs} {P : EdgeParams} (hclip : r.clip = { xh := 0, yh := 0, xl := 0, yl := 0 })
    (hyh : -2 ^ 13 ≤ P.yh ∧ P.yh < 2 ^ 13) (hyl : -2 ^ 13 ≤ P.yl ∧ P.yl < 2 ^ 13) :
    (yRange r P).yllimit ≤ (yRange r P).yhlimit := by
  have hsignH : hasBits P.yh 0x2000 = decide (P.yh < 0) := hasBits_sign hyh.1 hyh.2
  have hsignL : hasBits P.yl 0x2000 = decide (P.yl < 0) := hasBits_sign hyl.1 hyl.2
  have hbottom : (yRange r P).yllimit ≤ 0 := by
    simp only [yRange, hsignL, hclip, decide_eq_true_eq, BitVec.ofNat_eq_ofNat, BitVec.toNat_ofNat]
    split
    · omega
    · split
      · simp
      · simp
  have htop : 0 ≤ (yRange r P).yhlimit := by
    simp only [yRange, hsignH, hclip, decide_eq_true_eq, BitVec.ofNat_eq_ofNat, BitVec.toNat_ofNat]
    split
    · simp
    · split
      · omega
      · split <;> omega
  omega

/-- A sub-row outside the vertical limits is invalid (R620). -/
theorem subInvalid_of_outside {e : WalkEnv} {k : Int} (h : k < e.y.yhlimit ∨ e.y.yllimit ≤ k) (a : WalkAcc) :
    subInvalid e k a = true := by
  simp only [subInvalid, Bool.or_eq_true, decide_eq_true_eq]
  exact .inl h

/-- A line whose sub-rows have been invalid so far stays so under another invalid one (R617). -/
theorem walkRow_allinval {c : Ctx} {e : WalkEnv} {k : Int} {a : WalkAcc} (hclose : e.y.yhclose ≤ k)
    (hout : k < e.y.yhlimit ∨ e.y.yllimit ≤ k) (ha : k % 4 = 0 ∨ a.allinval = true) :
    (walkRow c e k a).allinval = true := by
  have hentry : (enterRow e k a).allinval = true := by
    by_cases hk : k % 4 = 0
    · rw [enterRow_first e hk]
    · rw [enterRow_later e hk, switchMinor]
      split <;> exact ha.resolve_left hk
  obtain ⟨sp, hrow⟩ := walkRow_accum (c := c) hclose a
  rw [hrow]
  simp only [advanceRow, accumLine, hentry, subInvalid_of_outside hout, Bool.and_self]

/-- A scanline with no sub-row inside the vertical limits is not drawn (R618). -/
theorem validline_of_outside {c : Ctx} {P : EdgeParams} {j : Nat} (hspan : spanInv c.params c.walk.span = true)
    (hj : j < c.params.maxScanlines) (hfirst : clearBits P.yh 3 ≤ 4 * j) (hclose : (yRange c.regs P).yhclose ≤ 4 * j)
    (hlast : 4 * j + 3 ≤ ylFar P (yRange c.regs P))
    (hout : ∀ k : Int, 4 * j ≤ k → k ≤ 4 * j + 3 → k < (yRange c.regs P).yhlimit ∨ (yRange c.regs P).yllimit ≤ k) :
    (spanAt c.params (edgeWalk c P).walk j).validline = false := by
  obtain ⟨a, sp, -, hrecord⟩ := walkSpans_record (I := fun _ => True) hspan hj hfirst hclose hlast trivial
    (fun _ _ _ => trivial)
  have hinval : (lineRows c (walkEnv c P) j a).allinval = true := by
    have hrow {k : Int} {a : WalkAcc} (hk : 4 * j ≤ k ∧ k ≤ 4 * j + 3) (ha : k % 4 = 0 ∨ a.allinval = true) :
        (walkRow c (walkEnv c P) k a).allinval = true :=
      walkRow_allinval (hclose.trans hk.1) (hout k hk.1 hk.2) ha
    exact hrow (by omega) (.inr (hrow (by omega) (.inr (hrow (by omega) (.inr (hrow (by omega) (.inl (by omega))))))))
  rw [hrecord, closeLine, hinval]
  rfl

/-- A primitive with an empty range has no valid scanline: at most one scanline is walked, and the limits meet in it (R622). -/
theorem validline_of_empty {c : Ctx} {P : EdgeParams} (hspan : spanInv c.params c.walk.span = true)
    (hyh : P.yh ≤ (yRange c.regs P).yhlimit) (hempty : (yRange c.regs P).yllimit ≤ (yRange c.regs P).yhlimit) {n : Nat}
    (hn : n < (renderRange c P).2) :
    (spanAt c.params (edgeWalk c P).walk ((renderRange c P).1 + n)).validline = false := by
  have hfirst := clearBits_three P.yh
  have hclose := clearBits_three (yRange c.regs P).yhlimit
  have hlast := setBits_three (yRange c.regs P).yllimit
  simp only [renderRange, shiftRight_two] at hn ⊢
  obtain ⟨j, hj⟩ : ∃ j : Nat, max 0 ((yRange c.regs P).yhlimit / 4) + n = (j : Int) :=
    ⟨_, (Int.toNat_of_nonneg (by omega)).symm⟩
  rw [hj]
  refine validline_of_outside hspan (by omega) (by omega) (by rw [YRange.yhclose]; omega) ?_ (by omega)
  rw [ylFar]
  split <;> omega

/-- Without a valid scanline the renderers leave host memory. -/
theorem renderSpans_host_of_invalid {c : Ctx} {range : Int × Nat} {p p' : Pixel}
    (hinvalid : ∀ n < range.2, (spanAt c.params c.walk (range.1 + n)).validline = false)
    (h : renderSpans c range p = .ok p') : p'.host = p.host := by
  unfold renderSpans at h
  split at h
  · cases h
    exact crashLatch_host _ p
  · refine forE_inv (Q := fun q => q.host = p.host) (fun n q q' _ hn hq hr => ?_) rfl h
    rw [renderStep, hinvalid n (by omega), Bool.not_false, Bool.or_true, if_pos rfl] at hr
    cases hr
    exact hq

/-- Settles O31: an empty range leaves no valid scanline, and the clip rectangle 0 makes every range empty. -/
theorem emptyRangeDrawsNothing : Obligations.EmptyRangeDrawsNothing := by
  unfold Obligations.EmptyRangeDrawsNothing
  intro i P s t hparams hinv hexec
  obtain ⟨hyh, hyl⟩ := edgeParamsOf_limits hparams
  obtain ⟨-, -, -, hspan, -, -⟩ := hinv
  have hempty (h : (yRange s.regs P).yllimit ≤ (yRange s.regs P).yhlimit) : t.pixel.host = s.pixel.host := by
    rw [exec_primitive hparams] at hexec
    rcases runPrimitive_next hexec with ⟨-, rfl⟩ | ⟨-, p, hrender, rfl⟩
    · rfl
    · have hhost := renderSpans_host_of_invalid (fun n hn => validline_of_empty hspan (le_yhlimit hyh) h hn) hrender
      exact hhost
  exact ⟨hempty, fun hclip => hempty (yRange_empty_of_clip_zero hclip hyh hyl)⟩

end Sys2Proof.Machine
end

section
/-! The walk of a filled rectangle inside the clip (R615 to R618, R630): its edges stay upright, so every scanline between its
first and its last gets the rectangle's own extent. -/

namespace Sys2Proof.Machine

open Sys2Proof.Config

/-! ## A rectangle's edges (R615, R616, R630) -/

/-- A mask's top bit, above a number. -/
theorem xor_two_pow_of_lt {x i : Nat} (h : x < 2 ^ i) : x ^^^ 2 ^ i = 2 ^ i + x := by
  have hor := Nat.two_pow_add_eq_or_of_lt h 1
  rw [Nat.mul_one] at hor
  rw [hor]
  apply Nat.eq_of_testBit_eq
  intro j
  rw [Nat.testBit_xor, Nat.testBit_or, Nat.testBit_two_pow]
  by_cases hj : i = j
  · subst hj
    simp [Nat.testBit_lt_two_pow h]
  · simp [hj]

theorem iand_natCast (a m : Nat) : iand (a : Int) m = a &&& m := rfl

theorem rectX_natCast (v : BitVec 12) : rectX v = ((v.toNat * 16384 : Nat) : Int) := by
  rw [rectX_eq, Nat.cast_mul]
  rfl

/-- An upright edge has nothing in its lowest bit. -/
theorem evenX_rectX (v : BitVec 12) : evenX (rectX v) = rectX v := by
  have hlow : iand (rectX v) 1 = 0 := by
    rw [rectX_natCast, iand_natCast, Nat.and_one_is_mod]
    omega
  rw [evenX, clearBits, hlow]
  exact Int.sub_zero _

theorem crossKey_rectX (v : BitVec 12) : crossKey (rectX v) = 2 ^ 27 + v.toNat * 16384 := by
  have hv := v.isLt
  have hmask : v.toNat * 16384 &&& 0x3fff <<< 14 = v.toNat * 16384 / 16384 * 16384 := and_high_mask (i := 14) (n := 14) (by omega)
  have htop : v.toNat * 16384 ^^^ 1 <<< 27 = 2 ^ 27 + v.toNat * 16384 := xor_two_pow_of_lt (i := 27) (by omega)
  rw [crossKey, rectX_natCast, iand_natCast, hmask, Nat.mul_div_cancel _ (by decide), htop]

/-- An upright edge inside the clip is bounded by itself, in eighths (R615). -/
theorem subBound_rectX {clip : Rect} {v : BitVec 12} (hleft : clip.xh.toNat ≤ v.toNat) (hright : v.toNat ≤ clip.xl.toNat) :
    subBound clip (rectX v) = { x := 2 * v.toNat, leftOut := false, rightOut := decide (clip.xl.toNat ≤ v.toNat) } := by
  have hv := v.isLt
  have hX := rectX_natCast v
  have hsign : hasBits (rectX v) 0x8000000 = false :=
    (hasBits_sign (i := 27) (by omega) (by omega)).trans (decide_eq_false (by omega))
  have hsticky : hasBits (rectX v >>> 1) 0x1fff = false := by
    rw [shiftRight_eq_div, show rectX v / 2 ^ 1 = ((v.toNat * 8192 : Nat) : Int) by omega, hasBits, iand_natCast,
      show v.toNat * 8192 &&& 0x1fff = v.toNat * 8192 % 8192 from Nat.and_two_pow_sub_one_eq_mod _ 13, Nat.mul_mod_left]
    rfl
  have heighths : rectX v >>> 13 = ((2 * v.toNat : Nat) : Int) := by
    rw [shiftRight_eq_div]
    omega
  have hcut : iand (rectX v >>> 13) 0x1ffe = 2 * v.toNat := by
    rw [heighths, iand_natCast, show 2 * v.toNat &&& 0x1ffe = 2 * v.toNat / 2 * 2 from
      and_high_mask (i := 1) (n := 12) (by omega)]
    omega
  have hwide : iand (rectX v >>> 13) 0x3ffe = 2 * v.toNat := by
    rw [heighths, iand_natCast, show 2 * v.toNat &&& 0x3ffe = 2 * v.toNat / 2 * 2 from
      and_high_mask (i := 1) (n := 13) (by omega)]
    omega
  have hover : 2 * v.toNat &&& 0x2000 = 0 := by
    rw [show 2 * v.toNat &&& 0x2000 = 2 * v.toNat / 8192 * 8192 from and_high_mask (i := 13) (n := 1) (by omega)]
    omega
  have hwhole : 2 * v.toNat &&& 0x1fff = 2 * v.toNat := by
    rw [show 2 * v.toNat &&& 0x1fff = 2 * v.toNat % 8192 from Nat.and_two_pow_sub_one_eq_mod _ 13]
    omega
  have hinside : ¬ 2 * v.toNat < clip.xh.toNat * 2 := by omega
  have hright' : clip.xl.toNat * 2 ≤ 2 * v.toNat ↔ clip.xl.toNat ≤ v.toNat := by omega
  simp only [subBound, hsign, hsticky, hcut, hwide, bitNat, Bool.false_eq_true, if_false, Nat.or_zero, hinside, decide_false,
    Bool.or_self, hover, hwhole, hright', ne_eq, not_true_eq_false, Bool.false_or, decide_eq_true_eq, SubBound.mk.injEq,
    and_true]
  split <;> omega

/-! ## The walk of a filled rectangle -/

/-- The parameter block of FILL_RECT in fill mode (R630, R632). -/
def fillBlock (r : Rect) : EdgeParams := rectParams .fill r 0 fillRectAttrs

/-- The rectangle lies inside the clip and reaches a sub-row before its last. -/
structure InsideClip (clip r : Rect) : Prop where
  left : clip.xh.toNat ≤ r.xh.toNat
  ordered : r.xh.toNat ≤ r.xl.toNat
  right : r.xl.toNat ≤ clip.xl.toNat
  nonempty : r.xh.toNat < clip.xl.toNat
  top : clip.yh.toNat ≤ r.yh.toNat
  high : r.yh.toNat < r.yl.toNat / 4 * 4 + 3
  bottom : r.yl.toNat / 4 * 4 + 3 < clip.yl.toNat

/-- The edges of a rectangle's walk are upright (R630). -/
structure Upright (r : Rect) (a : WalkAcc) : Prop where
  xmaj : a.xmaj = rectX r.xh
  xmin : a.xmin = rectX r.xl
  xminInc : a.xminInc = 0

section
variable {c : Ctx} {r : Rect} {k : Int} {a : WalkAcc}

theorem fillBlock_yl (r : Rect) : (fillBlock r).yl = ((r.yl.toNat / 4 * 4 + 3 : Nat) : Int) := by
  simp only [fillBlock, rectParams, rectYl_eq, true_or, if_true]

theorem fillBlock_yh (r : Rect) : (fillBlock r).yh = r.yh.toNat := rfl

/-- Inside the clip the vertical limits are the rectangle's own (R620, R630). -/
theorem yRange_fillBlock {regs : Regs} (h : InsideClip regs.clip r) :
    yRange regs (fillBlock r) = { yhlimit := r.yh.toNat, yllimit := ((r.yl.toNat / 4 * 4 + 3 : Nat) : Int) } := by
  have htop := h.top
  have hbottom := h.bottom
  have hyh := r.yh.isLt
  have hyl := r.yl.isLt
  have hsign (v : Nat) (hv : v < 4096) : hasBits v 0x2000 = false :=
    (hasBits_sign (i := 13) (by omega) (by omega)).trans (decide_eq_false (by omega))
  have hbit (v : Nat) (hv : v < 4096) : hasBits v 0x1000 = false :=
    (hasBits_sign (i := 12) (by omega) (by omega)).trans (decide_eq_false (by omega))
  have hlow : iand ((r.yl.toNat / 4 * 4 + 3 : Nat) : Int) 0xfff = r.yl.toNat / 4 * 4 + 3 := by
    rw [iand_natCast, and_0xfff]
    omega
  rw [yRange, fillBlock_yl, fillBlock_yh, hsign r.yh.toNat hyh, hbit r.yh.toNat hyh, hlow,
    hsign (r.yl.toNat / 4 * 4 + 3) (by omega), hbit (r.yl.toNat / 4 * 4 + 3) (by omega)]
  simp only [Bool.false_eq_true, if_false]
  rw [if_pos hbottom, if_pos (by omega)]

theorem walkRow_edges (c : Ctx) (e : WalkEnv) (k : Int) (a : WalkAcc) :
    (walkRow c e k a).xmaj = (enterRow e k a).xmaj + quarterSlope e.P.dxhdy ∧
      (walkRow c e k a).xmin = (enterRow e k a).xmin + (enterRow e k a).xminInc ∧
      (walkRow c e k a).xminInc = (enterRow e k a).xminInc := by
  rw [walkRow_eq]
  split <;> exact ⟨rfl, rfl, rfl⟩

theorem enterRow_upright (h : Upright r a) : Upright r (enterRow (walkEnv c (fillBlock r)) k a) := by
  have hswitch : Upright r (switchMinor (fillBlock r) k a) := by
    unfold switchMinor
    split
    · exact ⟨h.xmaj, evenX_rectX r.xl, rfl⟩
    · exact h
  unfold enterRow resetLine
  split
  · exact ⟨hswitch.xmaj, hswitch.xmin, hswitch.xminInc⟩
  · exact hswitch

theorem quarterSlope_zero : quarterSlope 0 = 0 := by decide

theorem walkRow_upright (h : Upright r a) : Upright r (walkRow c (walkEnv c (fillBlock r)) k a) := by
  obtain ⟨hmaj, hmin, hinc⟩ := enterRow_upright (c := c) (k := k) h
  obtain ⟨hmaj', hmin', hinc'⟩ := walkRow_edges c (walkEnv c (fillBlock r)) k a
  refine ⟨?_, ?_, hinc'.trans hinc⟩
  · rw [hmaj', hmaj, show quarterSlope (walkEnv c (fillBlock r)).P.dxhdy = 0 from quarterSlope_zero, Int.add_zero]
  · rw [hmin', hmin, hinc, Int.add_zero]

theorem walkStart_upright : Upright r (walkStart c (fillBlock r)) :=
  ⟨evenX_rectX r.xh, evenX_rectX r.xl, quarterSlope_zero⟩

/-- Sub-row `k` lies within the rectangle's limits (R620). -/
def withinRows (r : Rect) (k : Int) : Bool := decide (r.yh.toNat ≤ k ∧ k < r.yl.toNat / 4 * 4 + 3)

/-- A sub-row of the rectangle is invalid outside its limits alone: its edges do not cross (R616, R620). -/
theorem subInvalid_fillBlock (h : InsideClip c.regs.clip r) (ha : Upright r a) :
    subInvalid (walkEnv c (fillBlock r)) k a = !withinRows r k := by
  have hordered := h.ordered
  have hcross : crossed true a.xmaj a.xmin = false := by
    rw [crossed, if_pos rfl, ha.xmaj, ha.xmin, crossKey_rectX, crossKey_rectX]
    exact decide_eq_false (by omega)
  have hflip : (walkEnv c (fillBlock r)).P.flip = true := rfl
  rw [subInvalid, hflip, hcross, walkEnv, yRange_fillBlock h, withinRows, Bool.eq_iff_iff]
  simp only [Bool.or_false, Bool.or_eq_true, decide_eq_true_eq, Bool.not_eq_true', decide_eq_false_iff_not]
  omega

/-- The line's accumulators when some of its sub-rows so far are drawn, or none is (R617). -/
structure LineExtent (r : Rect) (drawn : Bool) (a : WalkAcc) : Prop where
  allinval : a.allinval = !drawn
  extMaj : a.extMaj = if drawn then r.xh.toNat / 4 else 0xfff
  extMin : a.extMin = if drawn then r.xl.toNat / 4 else 0

/-- The pixel of a bound in eighths (R617). -/
theorem eighths_pixel {v : Nat} (h : v < 4096) : ((2 * v) >>> 3) &&& 0xfff = v / 4 := by
  rw [and_0xfff, Nat.shiftRight_eq_div_pow]
  omega

/-- The accumulators after a sub-row, from those it starts from. -/
theorem accumLine_extent {drawn valid rightOut : Bool} (ha : LineExtent r drawn a) :
    LineExtent r (drawn || valid)
      (accumLine true (!valid) { x := 2 * r.xh.toNat, leftOut := false, rightOut := false }
        { x := 2 * r.xl.toNat, leftOut := false, rightOut := rightOut } a) := by
  obtain ⟨hinval, hmaj, hmin⟩ := ha
  have hxh := r.xh.isLt
  cases valid with
  | false => exact ⟨by simp [accumLine, hinval], by simpa [accumLine] using hmaj, by simpa [accumLine] using hmin⟩
  | true =>
    refine ⟨by simp [accumLine], ?_, ?_⟩
    · simp only [accumLine, hmaj, eighths_pixel hxh, Bool.not_true, Bool.false_eq_true, if_false, if_true, Bool.or_true]
      split <;> omega
    · simp only [accumLine, hmin, eighths_pixel r.xl.isLt, Bool.not_true, Bool.false_eq_true, if_false, if_true,
        Bool.or_true]
      split <;> omega

/-- One recorded sub-row of the rectangle: the line's extent is the rectangle's as soon as one sub-row is inside its limits, and
the line is neither wholly right nor wholly left of the clip (R615 to R617). -/
theorem walkRow_extent (h : InsideClip c.regs.clip r) (ha : Upright r a) (hk : r.yh.toNat / 4 * 4 ≤ k) {drawn : Bool}
    (hdrawn : (k % 4 = 0 ∧ drawn = false) ∨ (k % 4 ≠ 0 ∧ LineExtent r drawn a)) :
    LineExtent r (drawn || withinRows r k) (walkRow c (walkEnv c (fillBlock r)) k a) ∧
      (walkRow c (walkEnv c (fillBlock r)) k a).allover = false ∧
      (walkRow c (walkEnv c (fillBlock r)) k a).allunder = false := by
  have hleft := h.left
  have hordered := h.ordered
  have hright := h.right
  have hnonempty := h.nonempty
  have hclose : (walkEnv c (fillBlock r)).y.yhclose ≤ k := by
    rw [walkEnv, yRange_fillBlock h, YRange.yhclose, clearBits_three]
    exact hk
  have hentry : LineExtent r drawn (enterRow (walkEnv c (fillBlock r)) k a) := by
    rcases hdrawn with ⟨hfirst, rfl⟩ | ⟨hlater, hline⟩
    · rw [enterRow_first _ hfirst]
      exact ⟨rfl, rfl, rfl⟩
    · rw [enterRow_later _ hlater, switchMinor]
      split
      · exact ⟨hline.allinval, hline.extMaj, hline.extMin⟩
      · exact hline
  have hup := enterRow_upright (c := c) (k := k) ha
  obtain ⟨sp, hrow⟩ := walkRow_accum hclose a
  rw [subInvalid_fillBlock h hup, hup.xmaj, hup.xmin, subBound_rectX hleft (by omega), subBound_rectX (by omega) hright,
    decide_eq_false (by omega : ¬ c.regs.clip.xl.toNat ≤ r.xh.toNat)] at hrow
  have hextent := accumLine_extent (valid := withinRows r k) (rightOut := decide (c.regs.clip.xl.toNat ≤ r.xl.toNat)) hentry
  rw [hrow]
  refine ⟨⟨hextent.allinval, hextent.extMaj, hextent.extMin⟩, ?_, ?_⟩
  · simp [advanceRow, accumLine]
  · simp [advanceRow, accumLine]

/-- A scanline between the rectangle's first and its last has a sub-row within the limits, the last one because the rectangle
reaches a sub-row before its own last (R617). -/
theorem lineRows_extent (h : InsideClip c.regs.clip r) (ha : Upright r a) {y : Int} (hyh : r.yh.toNat / 4 ≤ y)
    (hyl : y ≤ r.yl.toNat / 4) :
    LineExtent r true (lineRows c (walkEnv c (fillBlock r)) y a) ∧
      (lineRows c (walkEnv c (fillBlock r)) y a).allover = false ∧
      (lineRows c (walkEnv c (fillBlock r)) y a).allunder = false := by
  have hhigh := h.high
  obtain ⟨h0, -⟩ := walkRow_extent h ha (k := 4 * y) (by omega) (.inl ⟨by omega, rfl⟩)
  have ha0 := walkRow_upright (c := c) (k := 4 * y) ha
  obtain ⟨h1, -⟩ := walkRow_extent h ha0 (k := 4 * y + 1) (by omega) (.inr ⟨by omega, h0⟩)
  have ha1 := walkRow_upright (c := c) (k := 4 * y + 1) ha0
  obtain ⟨h2, -⟩ := walkRow_extent h ha1 (k := 4 * y + 2) (by omega) (.inr ⟨by omega, h1⟩)
  have ha2 := walkRow_upright (c := c) (k := 4 * y + 2) ha1
  have h3 := walkRow_extent h ha2 (k := 4 * y + 3) (by omega) (.inr ⟨by omega, h2⟩)
  have hsome : (false || withinRows r (4 * y) || withinRows r (4 * y + 1) || withinRows r (4 * y + 2) ||
      withinRows r (4 * y + 3)) = true := by
    simp only [withinRows, Bool.false_or, Bool.or_eq_true, decide_eq_true_eq]
    omega
  rwa [hsome] at h3

/-- The record of a scanline of the rectangle: its extent is the rectangle's, and it is drawn if its field is kept
(R617, R618). -/
theorem spanAt_fillBlock (h : InsideClip c.regs.clip r) (hspan : spanInv c.params c.walk.span = true)
    (hlines : 1024 ≤ c.params.maxScanlines) {y : Nat} (hyh : r.yh.toNat / 4 ≤ y) (hyl : y ≤ r.yl.toNat / 4) :
    (spanAt c.params (edgeWalk c (fillBlock r)).walk y).rx.toNat = r.xh.toNat / 4 ∧
      (spanAt c.params (edgeWalk c (fillBlock r)).walk y).lx.toNat = r.xl.toNat / 4 ∧
      ((spanAt c.params (edgeWalk c (fillBlock r)).walk y).validline = true ↔
        (c.regs.scField = true → (y % 2 = 1 ↔ c.regs.scKeepOdd = true))) := by
  have hxh := r.xh.isLt
  have hxl := r.xl.isLt
  have hylt := r.yl.isLt
  obtain ⟨a, sp, ha, hrecord⟩ := walkSpans_record (c := c) (P := fillBlock r) (j := y) (I := Upright r) hspan (by omega)
    (by rw [clearBits_three, fillBlock_yh]; omega)
    (by rw [yRange_fillBlock h, YRange.yhclose, clearBits_three]; simp only; omega)
    (by
      rw [ylFar, setBits_three, yRange_fillBlock h]
      simp only
      split <;> omega)
    walkStart_upright (fun _ _ => walkRow_upright)
  obtain ⟨⟨hinval, hmaj, hmin⟩, hover, hunder⟩ := lineRows_extent h ha (y := y) (by omega) (by omega)
  have hodd : iand (y : Int) 1 = y % 2 := Nat.and_one_is_mod y
  rw [hrecord]
  simp only [closeLine, hinval, hmaj, hmin, hover, hunder, hodd, if_true, BitVec.toNat_ofNat]
  refine ⟨Nat.mod_eq_of_lt (by omega), Nat.mod_eq_of_lt (by omega), ?_⟩
  cases c.regs.scField with
  | false => simp
  | true =>
    cases c.regs.scKeepOdd <;> simp

end
end Sys2Proof.Machine
end

section
/-! FILL_RECT on a 16-bit image (R740, R741): a scanline of a fill is its pixels, and what a pixel leaves in a byte depends on the
byte's address alone, so that pixels may share bytes; the rectangle's pixels are those drawn. -/

namespace Sys2Proof.Machine

open Sys2Proof.Config

/-! ## A pixel of a 16-bit fill (R741) -/

/-- A fill of a 16-bit image runs through: fill mode, no kill condition, aligned masks, and accesses beyond RDRAM fault (R740,
R209). -/
structure Fills16 (c : Ctx) : Prop where
  cycle : c.regs.om.cycleType = .fill
  size : c.regs.fbSize = .b16
  kill : c.params.fillKillMode = .standard
  imageRead : c.regs.om.imageReadEn = false
  zCompare : c.regs.om.zCompareEn = false
  zUpdate : c.regs.om.zUpdateEn = false
  oob : c.params.oobMode = .fault
  mask : c.params.addrMask % 4 = 3

/-- Byte `x` is one of the two bytes of pixel index `n` (R710, R202). -/
def PixelByte (c : Ctx) (n : Int) (x : Nat) : Prop :=
  ∃ k : Nat, k < 2 ∧ x = maskAddr c.params (fbPixelAddr c.regs n + k)

/-- The half of the fill word that a pixel's address selects (R741). -/
def fillHalf (color : BitVec 32) (a : Int) : Nat := if a / 2 % 2 = 1 then color.toNat % 65536 else color.toNat / 65536

/-- What a 16-bit fill leaves in byte `x`: the fill word's byte of the same place within the word, whatever the pixel. So pixels
that share a byte agree on it. -/
def fillByte (color : BitVec 32) (x : Nat) : Byte := beByte 4 color.toNat (x % 4)

theorem hasBits_two (a : Int) : hasBits a 2 = decide (a / 2 % 2 = 1) := by
  have hbit (b : Nat) : b &&& 2 = b / 2 % 2 * 2 := by
    rw [show b &&& 2 = (b.testBit 1).toNat * 2 from Nat.and_two_pow b 1, Nat.testBit_eq_decide_div_mod_eq, Nat.pow_one]
    rcases Nat.mod_two_eq_zero_or_one (b / 2) with hb | hb <;> simp [hb]
  rw [hasBits, Bool.eq_iff_iff, bne_iff_ne, decide_eq_true_eq]
  cases a with
  | ofNat b =>
    rw [iand, hbit, Int.ofNat_eq_natCast]
    omega
  | negSucc b =>
    rw [iand, Nat.and_comm, hbit, Int.negSucc_eq]
    omega

/-- Both bytes of a halfword are the fill word's at their addresses. -/
theorem beByte_fillHalf {P : Params} (hmask : P.addrMask % 4 = 3) (color : BitVec 32) {a : Int} {k : Nat} (ha : a % 2 = 0)
    (hk : k < 2) : beByte 2 (fillHalf color a) k = fillByte color (maskAddr P (a + k)) := by
  have hx : (maskAddr P (a + k) : Int) % 4 = (a + k) % 4 := iand_mod_four _ hmask
  generalize maskAddr P (a + k) = x at hx ⊢
  have hcolor := color.isLt
  apply BitVec.eq_of_toNat_eq
  rw [fillByte, beByte_toNat, beByte_toNat, fillHalf]
  have hk' : k = 0 ∨ k = 1 := by omega
  split
  · rcases hk' with rfl | rfl
    · rw [show x % 4 = 2 by omega]
      omega
    · rw [show x % 4 = 3 by omega]
      omega
  · rcases hk' with rfl | rfl
    · rw [show x % 4 = 0 by omega]
      omega
    · rw [show x % 4 = 1 by omega]
      omega

section
variable {c : Ctx} {n : Int} {m m' : HostMem}

theorem fbPixelAddr_b16 (h : c.regs.fbSize = .b16) (n : Int) : fbPixelAddr c.regs n = base16 c.regs.fbAddress + 2 * n := by
  rw [fbPixelAddr, h]

/-- A paired write that answers where accesses beyond RDRAM fault was in range (R209). -/
theorem writePair16_of_fault {P : Params} {a : Int} {v hb : Nat} (ho : P.oobMode = .fault) (h : writePair16 P m a v hb = .ok m') :
    outOfRange P a 2 = none ∧ m' = hidWrite P (writeBytes P m a 2 v) (a >>> 1) hb := by
  rcases writeIf_cases P m a 2 (hidWrite P (writeBytes P m a 2 v) (a >>> 1) hb) with
    ⟨hx, h'⟩ | ⟨_, _, _, h'⟩ | ⟨_, _, hi, _⟩
  · exact ⟨hx, Except.ok.inj (h.symm.trans h')⟩
  · cases h.symm.trans h'
  · cases ho.symm.trans hi

theorem fillPixel_eq_writePair16 (h : c.regs.fbSize = .b16) (n : Int) (m : HostMem) :
    fillPixel c n m =
      writePair16 c.params m (fbPixelAddr c.regs n) (fillHalf c.regs.fillColor (fbPixelAddr c.regs n))
        (hidOfLowBit (fillHalf c.regs.fillColor (fbPixelAddr c.regs n))) := by
  have hhalf (a : Int) :
      (if hasBits a 2 then c.regs.fillColor.toNat &&& 0xffff else c.regs.fillColor.toNat >>> 16) =
        fillHalf c.regs.fillColor a := by
    simp only [hasBits_two, decide_eq_true_eq, and_0xffff, Nat.shiftRight_eq_div_pow, Nat.reducePow, fillHalf]
  simp only [fillPixel, h, hhalf]

/-- The fill of a 16-bit pixel: its bytes are in range, they become the fill word's, the others stay (R209, R741). -/
theorem fillPixel_b16 (hc : Fills16 c) (hm : hostInv c.params m = true) (h : fillPixel c n m = .ok m') :
    outOfRange c.params (fbPixelAddr c.regs n) 2 = none ∧
      (∀ x, PixelByte c n x → m'.byte x = fillByte c.regs.fillColor x) ∧
      ∀ x, ¬PixelByte c n x → m'.byte x = m.byte x := by
  have hwf : Memory.wf m = true := by
    simp only [hostInv, Bool.and_eq_true] at hm
    exact hm.1.1
  have heven : fbPixelAddr c.regs n % 2 = 0 := by
    rw [fbPixelAddr_b16 hc.size, base16]
    omega
  rw [fillPixel_eq_writePair16 hc.size] at h
  obtain ⟨hrange, rfl⟩ := writePair16_of_fault hc.oob h
  refine ⟨hrange, ?_, fun x hx => ?_⟩
  · rintro x ⟨k, hk, rfl⟩
    rw [hidWrite_byte, writeBytes_byte hc.mask hwf _ (by decide) _ hk]
    exact beByte_fillHalf hc.mask _ heven hk
  · rw [hidWrite_byte, writeBytes_byte_ne hwf _ _ _ _ (fun k hk hkx => hx ⟨k, hk, hkx⟩)]

end

/-! ## The pixels of a loop -/

/-- The pixel part is ready for a fill: host memory canonical and within its bounds, the latch clear. -/
structure Paintable (c : Ctx) (p : Pixel) : Prop where
  host : hostInv c.params p.host = true
  latch : p.crashed = false

/-- From `p` to `p'` exactly the pixels of `D` are filled. -/
structure Paints (c : Ctx) (D : Int → Prop) (p p' : Pixel) : Prop where
  paintable : Paintable c p'
  inRange : ∀ n, D n → outOfRange c.params (fbPixelAddr c.regs n) 2 = none
  painted : ∀ n x, D n → PixelByte c n x → p'.host.byte x = fillByte c.regs.fillColor x
  frame : ∀ x, (∀ n, D n → ¬PixelByte c n x) → p'.host.byte x = p.host.byte x

section
variable {c : Ctx} {D E : Int → Prop} {p q r : Pixel}

theorem Paints.refl (hp : Paintable c p) (hD : ∀ n, ¬D n) : Paints c D p p :=
  ⟨hp, fun n hn => absurd hn (hD n), fun n _ hn => absurd hn (hD n), fun _ _ => rfl⟩

theorem Paints.congr (h : Paints c D p q) (hE : ∀ n, E n ↔ D n) : Paints c E p q := by
  obtain rfl : E = D := funext fun n => propext (hE n)
  exact h

/-- Pixels filled twice keep their value, because the value of a byte depends on its address alone. -/
theorem Paints.trans {F : Int → Prop} (h : Paints c D p q) (h' : Paints c E q r) (hF : ∀ n, F n ↔ D n ∨ E n) :
    Paints c F p r := by
  refine ⟨h'.paintable, fun n hn => ?_, fun n x hn hx => ?_, fun x hx => ?_⟩
  · exact ((hF n).1 hn).elim (h.inRange n) (h'.inRange n)
  · by_cases hagain : ∃ k, E k ∧ PixelByte c k x
    · obtain ⟨k, hk, hkx⟩ := hagain
      exact h'.painted k x hk hkx
    · have hnot : ∀ k, E k → ¬PixelByte c k x := fun k hk hkx => hagain ⟨k, hk, hkx⟩
      rw [h'.frame x hnot]
      exact h.painted n x (((hF n).1 hn).resolve_right (fun hE => hnot n hE hx)) hx
  · rw [h'.frame x (fun n hn => hx n ((hF n).2 (.inr hn))), h.frame x (fun n hn => hx n ((hF n).2 (.inl hn)))]

/-- A loop fills the pixels of its rounds. -/
theorem forE_paints {f : Nat → Pixel → Except Fault Pixel} {D : Nat → Int → Prop} :
    ∀ {n i : Nat} {p p' : Pixel},
      (∀ j q q', i ≤ j → j < i + n → Paintable c q → f j q = .ok q' → Paints c (D j) q q') → Paintable c p →
      forE f i n p = .ok p' → Paints c (fun px => ∃ j, i ≤ j ∧ j < i + n ∧ D j px) p p'
  | 0, i, p, p', _, hp, h => by
    cases h
    exact .refl hp (fun px ⟨j, hi, hj, _⟩ => by omega)
  | n + 1, i, p, p', hround, hp, h => by
    simp only [forE] at h
    split at h
    next q hq =>
      have hfirst := hround i p q le_rfl (by omega) hp hq
      have hrest := forE_paints (n := n) (i := i + 1) (D := D)
        (fun j u u' hi hj => hround j u u' (by omega) (by omega)) hfirst.paintable h
      refine hfirst.trans hrest (fun px => ⟨fun ⟨j, hi, hj, hd⟩ => ?_, ?_⟩)
      · rcases Nat.eq_or_lt_of_le hi with rfl | hlt
        · exact .inl hd
        · exact .inr ⟨j, hlt, by omega, hd⟩
      · rintro (hd | ⟨j, hi, hj, hd⟩)
        · exact ⟨i, le_rfl, by omega, hd⟩
        · exact ⟨j, by omega, by omega, hd⟩
    next => cases h

end

/-! ## The fill renderer (R740) -/

section
variable {c : Ctx} {i : Int} {p p' : Pixel}

theorem fillPixels_paints (hc : Fills16 c) {n : Nat} (hp : Paintable c p) (h : fillPixels c i n p = .ok p') :
    Paints c (fun px => ∃ j < n, px = fbIndex c.regs (pixelColumn c i j) i) p p' := by
  refine (forE_paints (D := fun j px => px = fbIndex c.regs (pixelColumn c i j) i) (fun j q q' _ _ hq hr => ?_) hp h).congr
    (fun px => by simp)
  split at hr
  next m hm =>
    cases hr
    obtain ⟨hrange, hpainted, hframe⟩ := fillPixel_b16 hc hq.host hm
    refine ⟨⟨fillPixel_inv hq.host hm, hq.latch⟩, ?_, ?_, fun x hx => hframe x (hx _ rfl)⟩
    · rintro px rfl
      exact hrange
    · rintro px x rfl hx
      exact hpainted x hx
  next => cases hr

/-- Without a kill condition a scanline of a fill is its pixels (R740). -/
theorem renderLine_fill (hc : Fills16 c) (range : Int × Nat) (i : Int) (p : Pixel) :
    renderLine c range i p = fillPixels c i (pixelCount (fillLength c i)) p := by
  have hkill : lineKill c range i = none := by
    simp [lineKill, hc.kill, hc.imageRead, hc.zCompare, hc.zUpdate]
  simp only [renderLine, hc.cycle, lineFill, hkill]

/-- Pixel index `px` belongs to a valid scanline of the range (R618, R623, R740). -/
def FillDraws (c : Ctx) (range : Int × Nat) (px : Int) : Prop :=
  ∃ n < range.2, (spanAt c.params c.walk (range.1 + n)).validline = true ∧
    ∃ j < pixelCount (fillLength c (range.1 + n)), px = fbIndex c.regs (pixelColumn c (range.1 + n) j) (range.1 + n)

/-- A fill fills the pixels of its valid scanlines. -/
theorem renderSpans_paints (hc : Fills16 c) {range : Int × Nat} (hp : Paintable c p) (h : renderSpans c range p = .ok p') :
    Paints c (FillDraws c range) p p' := by
  have hentry : entryCrash c range = none := by
    simp [entryCrash, hc.cycle, hc.size, killsAtEntry, hc.kill]
  rw [renderSpans, hentry] at h
  refine (forE_paints (D := fun n px => (spanAt c.params c.walk (range.1 + n)).validline = true ∧
    ∃ j < pixelCount (fillLength c (range.1 + n)), px = fbIndex c.regs (pixelColumn c (range.1 + n) j) (range.1 + n))
    (fun n q q' _ _ hq hr => ?_) hp h).congr (fun px => by simp [FillDraws])
  rw [renderStep, hq.latch, Bool.false_or] at hr
  cases hvalid : (spanAt c.params c.walk (range.1 + n)).validline with
  | false =>
    rw [hvalid] at hr
    cases hr
    exact .refl hq (by simp)
  | true =>
    rw [hvalid, renderLine_fill hc] at hr
    exact (fillPixels_paints hc hq hr).congr (by simp)

end

/-! ## FILL_RECT -/

/-- The pixels of a rectangle that lie on a row of the kept field (R618, R632). -/
def RectPixel (r : Rect) (regs : Regs) (x y : Nat) : Prop :=
  (r.xh.toNat / 4 ≤ x ∧ x ≤ r.xl.toNat / 4) ∧ (r.yh.toNat / 4 ≤ y ∧ y ≤ r.yl.toNat / 4) ∧
    (regs.scField = true → (y % 2 = 1 ↔ regs.scKeepOdd = true))

/-- The scanlines walked for a rectangle inside the clip are its own (R623). -/
theorem renderRange_fillBlock {c : Ctx} {r : Rect} (h : InsideClip c.regs.clip r) (hlines : 1024 ≤ c.params.maxScanlines) :
    renderRange (edgeWalk c (fillBlock r)) (fillBlock r) =
      (((r.yh.toNat / 4 : Nat) : Int), r.yl.toNat / 4 + 1 - r.yh.toNat / 4) := by
  have hyl := r.yl.isLt
  have hhigh := h.high
  rw [renderRange, edgeWalk_regs, edgeWalk_params, yRange_fillBlock h]
  simp only [shiftRight_two, Prod.mk.injEq]
  omega

/-- The pixels drawn are those of the rectangle's kept rows. -/
theorem drawn_iff_rectPixel {c : Ctx} {r : Rect} (h : InsideClip c.regs.clip r) (hspan : spanInv c.params c.walk.span = true)
    (hlines : 1024 ≤ c.params.maxScanlines) (px : Int) :
    FillDraws (edgeWalk c (fillBlock r)) (renderRange (edgeWalk c (fillBlock r)) (fillBlock r)) px ↔
      ∃ x y : Nat, RectPixel r c.regs x y ∧ px = fbIndex c.regs x y := by
  have hordered := h.ordered
  have hrow (y : Nat) (hyh : r.yh.toNat / 4 ≤ y) (hyl : y ≤ r.yl.toNat / 4) :
      pixelCount (fillLength (edgeWalk c (fillBlock r)) y) = r.xl.toNat / 4 + 1 - r.xh.toNat / 4 ∧
        ∀ j : Nat, pixelColumn (edgeWalk c (fillBlock r)) y j = ((r.xh.toNat / 4 + j : Nat) : Int) := by
    obtain ⟨hrx, hlx, -⟩ := spanAt_fillBlock h hspan hlines hyh hyl
    have hflip : (edgeWalk c (fillBlock r)).walk.flip = true := rfl
    rw [← edgeWalk_params c (fillBlock r)] at hrx hlx
    refine ⟨?_, fun j => ?_⟩
    · rw [fillLength, lineLength, hflip, if_pos rfl, hrx, hlx, pixelCount]
      omega
    · rw [pixelColumn, hflip, if_pos rfl, hrx, Nat.cast_add]
  simp only [FillDraws, renderRange_fillBlock h hlines, edgeWalk_params, edgeWalk_regs, ← Nat.cast_add]
  constructor
  · rintro ⟨n, hn, hvalid, j, hj, rfl⟩
    obtain ⟨-, -, hkept⟩ := spanAt_fillBlock h hspan hlines (y := r.yh.toNat / 4 + n) (by omega) (by omega)
    obtain ⟨hcount, hcolumn⟩ := hrow (r.yh.toNat / 4 + n) (by omega) (by omega)
    rw [hcount] at hj
    exact ⟨r.xh.toNat / 4 + j, r.yh.toNat / 4 + n, ⟨by omega, by omega, hkept.1 hvalid⟩, by rw [hcolumn]⟩
  · rintro ⟨x, y, ⟨hx, hy, hkeep⟩, rfl⟩
    obtain ⟨n, rfl⟩ := Nat.exists_eq_add_of_le hy.1
    obtain ⟨j, rfl⟩ := Nat.exists_eq_add_of_le hx.1
    obtain ⟨-, -, hkept⟩ := spanAt_fillBlock h hspan hlines hy.1 hy.2
    obtain ⟨hcount, hcolumn⟩ := hrow _ hy.1 hy.2
    exact ⟨n, by omega, hkept.2 hkeep, j, by rw [hcount]; omega, by rw [hcolumn]⟩

/-- A filled pixel reads as its half of the fill word (R205, R741). -/
theorem Paints.memRead_eq {c : Ctx} {D : Int → Prop} {p p' : Pixel} (hc : Fills16 c) (h : Paints c D p p') {n : Int}
    (hn : D n) :
    memRead c.params p'.host (fbPixelAddr c.regs n) 2 = .ok (fillHalf c.regs.fillColor (fbPixelAddr c.regs n)) := by
  have heven : fbPixelAddr c.regs n % 2 = 0 := by
    rw [fbPixelAddr_b16 hc.size, base16]
    omega
  have hlt : fillHalf c.regs.fillColor (fbPixelAddr c.regs n) < 256 ^ 2 := by
    have := c.regs.fillColor.isLt
    rw [fillHalf]
    split <;> omega
  have hdigit (k : Nat) (hk : k < 2) : (p'.host.byte (maskAddr c.params (fbPixelAddr c.regs n + k))).toNat =
      fillHalf c.regs.fillColor (fbPixelAddr c.regs n) / 256 ^ (2 - 1 - k) % 256 := by
    rw [h.painted n _ hn ⟨k, hk, rfl⟩, ← beByte_fillHalf hc.mask _ heven hk, beByte_toNat]
  have hall := foldl_digits_eq hlt hdigit 2 le_rfl
  rw [Nat.sub_self, Nat.pow_zero, Nat.div_one] at hall
  rw [memRead_of_inRange (h.inRange n hn), readBytes, hall]

/-- Settles O32: the walk of the rectangle draws the pixels of its kept rows, the fill paints exactly the pixels drawn, and a
painted pixel reads as its half of the fill word. -/
theorem fillRectFillsExactly : Obligations.FillRectFillsExactly := by
  unfold Obligations.FillRectFillsExactly
  intro s t r hinv hcycle hsize hlatch hkill hread hcompare hupdate hoob hmask hlines hleft hordered hright hnonempty htop hhigh
    hbottom hexec
  have hclip : InsideClip s.toCtx.regs.clip r := ⟨hleft, hordered, hright, hnonempty, htop, hhigh, hbottom⟩
  have hfills : Fills16 (edgeWalk s.toCtx (fillBlock r)) := ⟨hcycle, hsize, hkill, hread, hcompare, hupdate, hoob, hmask⟩
  obtain ⟨hhost, -, -, hspan, -, -⟩ := hinv
  have hparams : edgeParamsOf s.regs.om.cycleType (.fillRect r) = some (fillBlock r) := by
    rw [hcycle]
    rfl
  rw [exec_primitive hparams] at hexec
  rcases runPrimitive_next hexec with ⟨hset, -⟩ | ⟨-, p, hrender, rfl⟩
  · rw [hlatch] at hset
    cases hset
  have hpaints := (renderSpans_paints (p := edgeGradients (fillBlock r) s.pixel) hfills ⟨hhost, hlatch⟩ hrender).congr
    (fun n => (drawn_iff_rectPixel hclip hspan hlines n).symm)
  refine ⟨fun x y hxh hxl hyh hyl hkept => ?_, fun a ha => ?_⟩
  · exact hpaints.memRead_eq hfills ⟨x, y, ⟨⟨hxh, hxl⟩, ⟨hyh, hyl⟩, hkept⟩, rfl⟩
  · refine hpaints.frame a ?_
    rintro n ⟨x, y, ⟨⟨hxh, hxl⟩, ⟨hyh, hyl⟩, hkept⟩, rfl⟩ ⟨k, hk, hbyte⟩
    exact ha x y k hxh hxl hyh hyl hkept hk hbyte

end Sys2Proof.Machine
end

section
/-! What a rendering command may store (43_span_renderers.md): every host write stores the bytes of its access and the hidden
fields of their halfwords (R207, R208), every pixel or copy group makes its own accesses alone, and so up to the command. -/

namespace Sys2Proof.Machine

open Sys2Proof.Config

/-! ## Stores within a set of bytes -/

/-- From `m`, where it is canonical, to `m'` the bytes outside `S` stay, and the hidden fields of the halfwords without a byte
in `S`. -/
structure StoresWithin (S : Nat → Prop) (m m' : HostMem) : Prop where
  wf : Memory.wf m = true → Memory.wf m' = true
  byte : Memory.wf m = true → ∀ a, ¬S a → m'.byte a = m.byte a
  hidden : Memory.wf m = true → ∀ h, ¬S (2 * h) → ¬S (2 * h + 1) → m'.hidden h = m.hidden h

section
variable {S T : Nat → Prop} {m m' m'' : HostMem}

theorem StoresWithin.refl (m : HostMem) : StoresWithin S m m := ⟨id, fun _ _ _ => rfl, fun _ _ _ _ => rfl⟩

theorem StoresWithin.trans (h : StoresWithin S m m') (h' : StoresWithin S m' m'') : StoresWithin S m m'' where
  wf hm := h'.wf (h.wf hm)
  byte hm a ha := (h'.byte (h.wf hm) a ha).trans (h.byte hm a ha)
  hidden hm i hlo hhi := (h'.hidden (h.wf hm) i hlo hhi).trans (h.hidden hm i hlo hhi)

theorem StoresWithin.mono (h : StoresWithin S m m') (hST : ∀ a, S a → T a) : StoresWithin T m m' where
  wf := h.wf
  byte hm a ha := h.byte hm a (fun hS => ha (hST a hS))
  hidden hm i hlo hhi := h.hidden hm i (fun hS => hlo (hST _ hS)) (fun hS => hhi (hST _ hS))

theorem Quiet.storesWithin {p q : Pixel} (h : Quiet p q) : StoresWithin S p.host q.host := by
  rw [h.host]
  exact .refl _

/-- A loop stores where its rounds do. -/
theorem forE_storesWithin {σ : Type} (host : σ → HostMem) {f : Nat → σ → Except Fault σ} {i n : Nat} {s s' : σ}
    (hround : ∀ j t t', i ≤ j → j < i + n → f j t = .ok t' → StoresWithin S (host t) (host t'))
    (h : forE f i n s = .ok s') : StoresWithin S (host s) (host s') :=
  forE_inv (Q := fun t => StoresWithin S (host s) (host t)) (fun j t t' hi hj ht hr => ht.trans (hround j t t' hi hj hr))
    (.refl _) h

end

/-! ## Host writes (R205 to R209) -/

/-- Byte `x` is one of the `n` bytes from address `a` on (R202, R205). -/
def AccessByte (P : Params) (a : Int) (n x : Nat) : Prop := ∃ k : Nat, k < n ∧ x = maskAddr P (a + k)

theorem iand_div_two (v : Int) (m : Nat) : iand v m / 2 = iand (v / 2) (m / 2) := by
  have hhalf (b : Nat) : (m &&& b) / 2 = m / 2 &&& b / 2 := Nat.and_div_two_pow (n := 1)
  cases v with
  | ofNat b =>
    rw [show Int.ofNat b / 2 = ((b / 2 : Nat) : Int) from rfl, iand_natCast, iand, Nat.and_comm, hhalf, Nat.and_comm]
  | negSucc b =>
    have hlow : (m &&& b) % 2 ≤ m % 2 :=
      (Nat.and_mod_two_pow (n := 1)).trans_le Nat.and_le_left
    have hb := hhalf b
    rw [show Int.negSucc b / 2 = Int.negSucc (b / 2) by omega, iand, iand]
    omega

/-- The hidden field of an address's halfword is the one of the byte it selects, whatever the mask (R202, R207). -/
theorem hidKey_eq (P : Params) {a h : Int} (hh : h = a / 2) : hidKey P h = maskAddr P a / 2 := by
  rw [hidKey, maskAddr, maskAddr, iand_div_two, iand_div_two, hh, Int.mul_ediv_cancel_left _ (by decide)]

theorem HostMem.setHidden_wf {m : HostMem} (h : Memory.wf m = true) (k : Nat) (v : BitVec 2) :
    Memory.wf (m.setHidden k v) = true := by
  simp only [Memory.wf, Bool.and_eq_true] at h ⊢
  exact ⟨h.1, sparsePut_wf k v h.2⟩

theorem writeBytes_wf {P : Params} {m : HostMem} (hm : Memory.wf m = true) (a : Int) (n v : Nat) :
    Memory.wf (writeBytes P m a n v) = true :=
  List.foldlRecOn (motive := fun m => Memory.wf m = true) _ _ hm (fun _ hm _ _ => HostMem.setByte_wf hm _ _)

section
variable {P : Params} {S : Nat → Prop} {m m' r : HostMem} {a : Int} {n v : Nat}

theorem writeBytes_storesWithin : StoresWithin (AccessByte P a n) m (writeBytes P m a n v) where
  wf hm := writeBytes_wf hm a n v
  byte hm x hx := writeBytes_byte_ne hm a n v x (fun k hk hkx => hx ⟨k, hk, hkx⟩)
  hidden _ h _ _ := writeBytes_hidden P m a n v h

/-- A hidden-field write goes with a byte of its halfword. -/
theorem hidWrite_storesWithin {h : Int} (hh : h = a / 2) (ha : S (maskAddr P a)) :
    StoresWithin S m (hidWrite P m h v) := by
  unfold hidWrite
  split
  · rw [hidKey_eq P hh]
    refine ⟨fun hm => HostMem.setHidden_wf hm _ _, fun _ _ _ => rfl, fun hm k hlo hhi => ?_⟩
    rw [HostMem.hidden_setHidden hm, if_neg]
    rintro rfl
    rcases Nat.mod_two_eq_zero_or_one (maskAddr P a) with heven | hodd
    · exact hlo (by rwa [show 2 * (maskAddr P a / 2) = maskAddr P a by omega])
    · exact hhi (by rwa [show 2 * (maskAddr P a / 2) + 1 = maskAddr P a by omega])
  · exact .refl m

theorem writeIf_storesWithin (h' : StoresWithin S m m') (h : writeIf P m a n m' = .ok r) : StoresWithin S m r := by
  rcases writeIf_ok h with ⟨-, rfl⟩ | rfl
  · exact h'
  · exact .refl _

theorem AccessByte.first (hn : 0 < n) : AccessByte P a n (maskAddr P a) := ⟨0, hn, by simp⟩

theorem shiftRight_one (a : Int) : a >>> 1 = a / 2 := shiftRight_eq_div a 1

theorem memWrite_storesWithin (h : memWrite P m a n v = .ok r) : StoresWithin (AccessByte P a n) m r :=
  writeIf_storesWithin writeBytes_storesWithin h

theorem writePair8_storesWithin (h : writePair8 P m a v = .ok r) : StoresWithin (AccessByte P a 1) m r := by
  refine writeIf_storesWithin ?_ h
  split
  · exact writeBytes_storesWithin.trans (hidWrite_storesWithin (shiftRight_one a) (.first (by decide)))
  · exact writeBytes_storesWithin

theorem writePair16_storesWithin {hb : Nat} (h : writePair16 P m a v hb = .ok r) : StoresWithin (AccessByte P a 2) m r :=
  writeIf_storesWithin
    (writeBytes_storesWithin.trans (hidWrite_storesWithin (shiftRight_one a) (.first (by decide)))) h

theorem writePair32_storesWithin {hHi hLo : Nat} (h : writePair32 P m a v hHi hLo = .ok r) :
    StoresWithin (AccessByte P a 4) m r := by
  have hlow : a >>> 1 + 1 = (a + 2) / 2 := by
    rw [shiftRight_one]
    omega
  exact writeIf_storesWithin ((writeBytes_storesWithin.trans
    (hidWrite_storesWithin (shiftRight_one a) (.first (by decide)))).trans
    (hidWrite_storesWithin hlow ⟨2, by decide, rfl⟩)) h

end

/-! ## Pixels (R703, R706, R710, R1009) -/

/-- Byte `a` belongs to pixel index `n` in the colour image (R710). -/
def ColourAccess (c : Ctx) (n : Int) : Nat → Prop := AccessByte c.params (fbPixelAddr c.regs n) (pixelBytes c.regs.fbSize)

/-- Byte `a` belongs to pixel index `n` in the colour image, or in the depth image where depth is updated (R710, R1009). -/
def PixelAccess (c : Ctx) (n : Int) (a : Nat) : Prop :=
  ColourAccess c n a ∨ (c.regs.om.zUpdateEn = true ∧ AccessByte c.params (zbAddr c.regs n) 2 a)

section
variable {c : Ctx} {m m' : HostMem} {n : Int} {p p' : Pixel} {f : Fragment} {i : Int} {j : Nat}

theorem fbStore_storesWithin {v : Rgb Nat} {fc : Nat} (h : fbStore c m n v fc = .ok m') :
    StoresWithin (ColourAccess c n) m m' := by
  unfold fbStore at h
  simp only at h
  split at h <;> rename_i hsize <;> simp only [ColourAccess, hsize, pixelBytes]
  · split at h
    · exact memWrite_storesWithin h
    · cases h
  · exact writePair8_storesWithin h
  · exact writePair16_storesWithin h
  · exact writePair32_storesWithin h

theorem zStore_storesWithin {z d : Nat} (h : zStore c m n z d = .ok m') :
    StoresWithin (AccessByte c.params (zbAddr c.regs n) 2) m m' := writePair16_storesWithin h

theorem writePixel_storesWithin {z : ZResult} {mc : Nat} {v : Option (Rgb Nat)} (h : writePixel c p f z mc v = .ok p') :
    StoresWithin (PixelAccess c (fbIndex c.regs f.x f.y)) p.host p'.host := by
  unfold writePixel at h
  split at h
  · cases h
    exact .refl _
  split at h
  · cases h
  next m hcolour =>
    have hfirst := (fbStore_storesWithin hcolour).mono (T := PixelAccess c (fbIndex c.regs f.x f.y)) (fun _ => .inl)
    split at h
    next hupdate =>
      split at h
      · cases h
      next m' hdepth =>
        cases h
        exact hfirst.trans ((zStore_storesWithin hdepth).mono (fun _ ha => .inr ⟨hupdate, ha⟩))
    next =>
      cases h
      exact hfirst

theorem finish1_storesWithin (h : finish1 c p f = .ok p') :
    StoresWithin (PixelAccess c (fbIndex c.regs f.x f.y)) p.host p'.host := by
  unfold finish1 at h
  split at h
  · cases h
  split at h
  · cases h
  next hz =>
    have hcompare : StoresWithin (PixelAccess c (fbIndex c.regs f.x f.y)) p.host _ := (zCompare_quiet hz).storesWithin
    split at h
    · exact (hcompare.trans (blend1_quiet _ _ _ _ _ _).storesWithin).trans (writePixel_storesWithin h)
    · cases h
      exact hcompare

theorem finish2_storesWithin (h : finish2 c p f = .ok p') :
    StoresWithin (PixelAccess c (fbIndex c.regs f.x f.y)) p.host p'.host := by
  unfold finish2 at h
  split at h
  · cases h
  split at h
  · cases h
  next hz =>
    have hcompare : StoresWithin (PixelAccess c (fbIndex c.regs f.x f.y)) p.host _ := (zCompare_quiet hz).storesWithin
    split at h
    · exact (hcompare.trans (blend2_quiet _ _ _ _ _ _).storesWithin).trans (writePixel_storesWithin h)
    · cases h
      exact hcompare

theorem pixel1_storesWithin (h : pixel1 c (lineSetup c i) j p = .ok p') :
    StoresWithin (PixelAccess c (fbIndex c.regs (pixelColumn c i j) i)) p.host p'.host := by
  unfold pixel1 at h
  simp only [lineSetup_column] at h
  split at h
  · cases h
  next ht =>
    exact (((texels1_quiet ht).trans (ditherValues_quiet _ _ _ _)).trans (randIf_quiet _ _ _)).storesWithin.trans
      (finish1_storesWithin h)

theorem pixel2_storesWithin (h : pixel2 c (lineSetup c i) j p = .ok p') :
    StoresWithin (PixelAccess c (fbIndex c.regs (pixelColumn c i j) i)) p.host p'.host := by
  unfold pixel2 at h
  simp only [lineSetup_column] at h
  split at h
  · cases h
  next ht =>
    exact (((texels2_quiet ht).trans (ditherValues_quiet _ _ _ _)).trans (randIf_quiet _ _ _)).storesWithin.trans
      (finish2_storesWithin h)

theorem lineWrites_host (c : Ctx) (i : Int) (p : Pixel) : (lineWrites c i p).host = p.host := by
  unfold lineWrites
  simp only
  split <;> rfl

theorem fillPixel_storesWithin (h : fillPixel c n m = .ok m') : StoresWithin (ColourAccess c n) m m' := by
  unfold fillPixel at h
  simp only at h
  split at h <;> rename_i hsize <;> simp only [ColourAccess, hsize, pixelBytes]
  · cases h
    exact .refl m
  · exact writePair8_storesWithin h
  · exact writePair16_storesWithin h
  · exact writePair32_storesWithin h

end

/-! ## Scanlines (R701, R740, R750) -/

section
variable {c : Ctx} {i : Int} {p p' : Pixel}

theorem ColourAccess.colourByte {j a : Nat} (hj : j < 0 + pixelCount (lineLength c.walk.flip (spanAt c.params c.walk i)))
    (h : ColourAccess c (fbIndex c.regs (pixelColumn c i j) i) a) : colourByte c i a := by
  obtain ⟨k, hk, ha⟩ := h
  exact ⟨j, k, lt_pixelCount hj, hk, ha⟩

/-- The bytes of a scanline of the 1-cycle and 2-cycle renderers (R703, R706). -/
theorem PixelAccess.lineBytes {j a : Nat} (hj : j < 0 + pixelCount (lineLength c.walk.flip (spanAt c.params c.walk i)))
    (h : PixelAccess c (fbIndex c.regs (pixelColumn c i j) i) a) :
    Machine.colourByte c i a ∨ (c.regs.om.zUpdateEn = true ∧ depthByte c i a) := by
  rcases h with hcolour | ⟨hupdate, k, hk, ha⟩
  · exact .inl (hcolour.colourByte hj)
  · exact .inr ⟨hupdate, j, k, lt_pixelCount hj, hk, ha⟩

theorem line1_storesWithin (h : line1 c i p = .ok p') :
    StoresWithin (fun a => colourByte c i a ∨ (c.regs.om.zUpdateEn = true ∧ depthByte c i a)) p.host p'.host :=
  lineWrites_host c i p ▸ forE_storesWithin Pixel.host
    (fun _ _ _ _ hj hr => (pixel1_storesWithin hr).mono (fun _ => PixelAccess.lineBytes hj)) h

theorem line2_storesWithin (h : line2 c i p = .ok p') :
    StoresWithin (fun a => colourByte c i a ∨ (c.regs.om.zUpdateEn = true ∧ depthByte c i a)) p.host p'.host :=
  lineWrites_host c i p ▸ forE_storesWithin Pixel.host
    (fun _ _ _ _ hj hr => (pixel2_storesWithin hr).mono (fun _ => PixelAccess.lineBytes hj)) h

theorem fillPixels_storesWithin {n : Nat} (hn : n ≤ pixelCount (fillLength c i)) (h : fillPixels c i n p = .ok p') :
    StoresWithin (colourByte c i) p.host p'.host := by
  refine forE_storesWithin Pixel.host (fun j q q' _ hj hr => ?_) h
  split at hr
  next m hm =>
    cases hr
    exact (fillPixel_storesWithin hm).mono (fun _ => ColourAccess.colourByte (by rw [fillLength] at hn; omega))
  next => cases hr

theorem lineFill_storesWithin {range : Int × Nat} (h : lineFill c range i p = .ok p') :
    StoresWithin (colourByte c i) p.host p'.host := by
  unfold lineFill at h
  split at h
  · exact fillPixels_storesWithin le_rfl h
  · split at h
    next q hq =>
      cases h
      rw [crashLatch_host]
      exact fillPixels_storesWithin (min_le_right _ _) hq
    next => cases h

/-- Byte `k` of a run of the copy renderer, from `a` on in the walking direction (R750). -/
def copyAddr (c : Ctx) (a : Int) (k : Nat) : Int := if c.walk.flip then a + k else a - k

theorem copyBytes_storesWithin {q m : Nat} {a : Int} {n : Nat} {host host' : HostMem}
    (h : copyBytes c q m a n host = .ok host') :
    StoresWithin (fun x => ∃ k < n, x = maskAddr c.params (copyAddr c a k)) host host' := by
  refine forE_storesWithin id (fun k t t' _ hk hr => ?_) h
  split at hr
  · refine (writePair8_storesWithin hr).mono ?_
    rintro _ ⟨j, hj, rfl⟩
    obtain rfl : j = 0 := by omega
    exact ⟨k, by omega, by simp [copyAddr]⟩
  · cases hr
    exact .refl _

/-- The bytes of a copy scanline, from `fbptr` in the walking direction to the last one of the pixel at `lx` (R750). -/
theorem copySetup_fbend (c : Ctx) (i : Int) :
    (if c.walk.flip then (copySetup c i).fbend - (copySetup c i).fbptr else (copySetup c i).fbptr - (copySetup c i).fbend) =
      lineLength c.walk.flip (spanAt c.params c.walk i) * copyBpp c.regs.fbSize := by
  simp only [copySetup, lineLength, fbIndex]
  split <;> ring

theorem copyGroupStep_storesWithin {g : Nat} (h : copyGroupStep c (copySetup c i) g p = .ok p') :
    StoresWithin (copyByte c i) p.host p'.host := by
  unfold copyGroupStep at h
  simp only at h
  split at h
  · cases h
  next q p1 hfetch =>
    split at h
    · cases h
    next host hbytes =>
      cases h
      have hquiet := ((writeLodFrac_quiet c p _ _ _).trans (copyFetch_quiet hfetch)).trans (copyMask_quiet c p1 q)
      refine hquiet.storesWithin.trans ((copyBytes_storesWithin hbytes).mono ?_)
      rintro _ ⟨k, hk, rfl⟩
      have hlen := copySetup_fbend c i
      refine ⟨8 * g + k, ?_, ?_⟩
      · generalize lineLength c.walk.flip (spanAt c.params c.walk i) * (copyBpp c.regs.fbSize : Int) = len at hlen ⊢
        split at hlen <;> rename_i hflip <;> simp only [hflip, if_true, if_false, Bool.false_eq_true] at hk <;> omega
      · rw [copyAddr]
        congr 1
        split <;> omega

theorem lineCopy_storesWithin (h : lineCopy c i p = .ok p') : StoresWithin (copyByte c i) p.host p'.host :=
  forE_storesWithin Pixel.host (fun _ _ _ _ _ => copyGroupStep_storesWithin) h

/-! ## Primitives (R600, R700) -/

/-- The bytes of a scanline by the cycle type (R700). -/
theorem lineStores_of_oneCycle (h : c.regs.om.cycleType = .oneCycle) :
    lineStores c i = fun a => colourByte c i a ∨ (c.regs.om.zUpdateEn = true ∧ depthByte c i a) := by
  funext a
  simp only [lineStores, h]

theorem lineStores_of_twoCycle (h : c.regs.om.cycleType = .twoCycle) :
    lineStores c i = fun a => colourByte c i a ∨ (c.regs.om.zUpdateEn = true ∧ depthByte c i a) := by
  funext a
  simp only [lineStores, h]

theorem lineStores_of_copy (h : c.regs.om.cycleType = .copy) : lineStores c i = copyByte c i := by
  funext a
  simp only [lineStores, h]

theorem lineStores_of_fill (h : c.regs.om.cycleType = .fill) : lineStores c i = colourByte c i := by
  funext a
  simp only [lineStores, h]

theorem renderLine_storesWithin {range : Int × Nat} (h : renderLine c range i p = .ok p') :
    StoresWithin (lineStores c i) p.host p'.host := by
  cases hcycle : c.regs.om.cycleType with
  | oneCycle =>
    simp only [renderLine, hcycle] at h
    rw [lineStores_of_oneCycle hcycle]
    exact line1_storesWithin h
  | twoCycle =>
    simp only [renderLine, hcycle] at h
    rw [lineStores_of_twoCycle hcycle]
    exact line2_storesWithin h
  | copy =>
    simp only [renderLine, hcycle] at h
    rw [lineStores_of_copy hcycle]
    exact lineCopy_storesWithin h
  | fill =>
    simp only [renderLine, hcycle] at h
    rw [lineStores_of_fill hcycle]
    exact lineFill_storesWithin h

theorem renderSpans_storesWithin {P : EdgeParams} (h : renderSpans c (renderRange c P) p = .ok p') :
    StoresWithin (primitiveStores c P) p.host p'.host := by
  unfold renderSpans at h
  split at h
  · cases h
    rw [crashLatch_host]
    exact .refl _
  refine forE_storesWithin Pixel.host (fun n q q' _ hn hr => ?_) h
  unfold renderStep at hr
  split at hr
  · cases hr
    exact .refl _
  next hdraw =>
    have hvalid : (spanAt c.params c.walk ((renderRange c P).1 + n)).validline = true := by
      simpa using (Bool.or_eq_false_iff.1 (Bool.eq_false_of_not_eq_true hdraw)).2
    exact (renderLine_storesWithin hr).mono (fun _ ha => ⟨n, by omega, hvalid, ha⟩)

end

/-- Settles O30: each renderer's pixels and groups store within the bytes of their scanline, and a hidden field goes with a byte
of its halfword. -/
theorem renderingStoresOnlyItsPixels : Obligations.RenderingStoresOnlyItsPixels := by
  unfold Obligations.RenderingStoresOnlyItsPixels
  intro i P s t hparams hwf hexec stores
  rw [exec_primitive hparams] at hexec
  rcases runPrimitive_next hexec with ⟨-, rfl⟩ | ⟨-, p, hrender, rfl⟩
  · exact ⟨fun _ _ => rfl, fun _ _ _ => rfl⟩
  · have hstores := renderSpans_storesWithin hrender
    exact ⟨hstores.byte hwf, hstores.hidden hwf⟩

end Sys2Proof.Machine
end

section
/-! The memory colour of a 2-cycle pixel (R707, 43_span_renderers.md): its framebuffer read sets the pre-memory colour, which no
later stage changes and which every path then takes over. -/

namespace Sys2Proof.Machine

open Sys2Proof.Config

section
variable {c : Ctx} {p p' : Pixel}

theorem setNoiseSeed_preMemoryColor (p : Pixel) (x : BitVec 32) :
    { p with noiseSeed := x }.preMemoryColor = p.preMemoryColor := rfl

theorem rand_preMemoryColor (P : Params) (p : Pixel) : (rand P p).2.preMemoryColor = p.preMemoryColor := by
  unfold rand
  split
  · rfl
  · exact setNoiseSeed_preMemoryColor p _

theorem randIf_preMemoryColor (want : Bool) (P : Params) (p : Pixel) :
    (randIf want P p).2.preMemoryColor = p.preMemoryColor := by
  unfold randIf
  split
  · exact rand_preMemoryColor P p
  · rfl

theorem alphaCompare_preMemoryColor (c : Ctx) (p : Pixel) (x : Nat) :
    (alphaCompare c p x).2.preMemoryColor = p.preMemoryColor := by
  unfold alphaCompare
  split
  · exact randIf_preMemoryColor _ _ _
  · rfl

theorem zCompare_preMemoryColor {n : Int} {sz dz de cv mc : Nat} {z : ZResult}
    (h : zCompare c p n sz dz de cv mc = .ok (z, p')) : p'.preMemoryColor = p.preMemoryColor := by
  unfold zCompare at h
  split at h
  · split at h
    · cases h
      rfl
    · cases h
  · cases h
    rfl

/-- A pixel of the 2-cycle renderer leaves with memory colour `v`, its own (R707). -/
def MemoryColourIs (v : Rgba8) (p : Pixel) : Prop := p.memoryColor = v ∧ p.preMemoryColor = v

theorem takePreMemory_memoryColourIs (p : Pixel) : MemoryColourIs p.preMemoryColor (takePreMemory p) := ⟨rfl, rfl⟩

/-- The 2-cycle blender takes over the pre-memory colour whatever its tests answer. -/
theorem blend2_memoryColourIs (c : Ctx) (p : Pixel) (q : CombinedPixel) (sa d : Nat) (k : BlendCtl) :
    MemoryColourIs p.preMemoryColor (blend2 c p q sa d k).2 := by
  have htake := takePreMemory_memoryColourIs (alphaCompare c p q.acalpha).2
  rw [alphaCompare_preMemoryColor] at htake
  unfold blend2
  simp only
  split <;> exact htake

theorem writePixel_memoryColourIs {f : Fragment} {z : ZResult} {mc : Nat} {v : Option (Rgb Nat)} {m : Rgba8}
    (hp : MemoryColourIs m p) (h : writePixel c p f z mc v = .ok p') : MemoryColourIs m p' := by
  unfold writePixel at h
  split at h
  · cases h
    exact hp
  split at h
  · cases h
  split at h
  · split at h <;> cases h
    exact hp
  · cases h
    exact hp

end

/-- Settles O34: both paths of the depth test take over the pre-memory colour, and no write changes it. -/
theorem twoCycleKeepsItsMemoryColour : Obligations.TwoCycleKeepsItsMemoryColour := by
  unfold Obligations.TwoCycleKeepsItsMemoryColour
  intro c p q f fb hread hfinish
  change MemoryColourIs fb.color q
  unfold finish2 at hfinish
  simp only [hread] at hfinish
  split at hfinish
  · cases hfinish
  next z p' hcompare =>
    have hown : p'.preMemoryColor = fb.color := zCompare_preMemoryColor hcompare
    rw [← hown]
    split at hfinish
    · exact writePixel_memoryColourIs (blend2_memoryColourIs c p' f.q f.shadeA f.cdith (blendCtl f z)) hfinish
    · cases hfinish
      exact takePreMemory_memoryColourIs p'

end Sys2Proof.Machine
end

section
/-! The crashes of fill and copy (R740, R754, R1104): the illegal targets, checked once per primitive before any scanline, and
image read or depth compare in fill mode, checked before the pixels of a scanline. -/

namespace Sys2Proof.Machine

open Sys2Proof.Config

/-! ## The crash latch (R1105) -/

section
variable {w : Warned} {n : CrashName} {p : Pixel}

theorem Warned.add_of_has (h : w.has n = true) : w.add n = w := by
  obtain ⟨fill4, readDepth, copy32⟩ := w
  cases n <;> simp only [Warned.has] at h <;> subst h <;> rfl

theorem crashLatch_warned (n : CrashName) (p : Pixel) : (crashLatch n p).warned = p.warned.add n := by
  obtain ⟨-, hwarned⟩ := crashLatch_spec n p
  rw [hwarned]
  split
  next hhas => exact (Warned.add_of_has hhas).symm
  next => rfl

theorem crashLatch_diag (n : CrashName) (p : Pixel) :
    (crashLatch n p).diag = p.diag ++ (if p.warned.has n then [] else [.crash n]) := by
  obtain ⟨hlatch, -⟩ := crashLatch_spec n p
  rw [hlatch]
  split
  · exact (List.append_nil _).symm
  · rfl

end

@[simp] theorem edgeGradients_diag (P : EdgeParams) (p : Pixel) : (edgeGradients P p).diag = p.diag := rfl

/-! ## Primitives on an illegal target -/

/-- With the latch clear a rendering command leaves what its scanlines leave (R600). -/
theorem runPrimitive_of_renderSpans {P : EdgeParams} {s : State} {p : Pixel} (hclear : s.pixel.crashed = false)
    (h : renderSpans (edgeWalk s.toCtx P) (renderRange (edgeWalk s.toCtx P) P) (edgeGradients P s.pixel) = .ok p) :
    runPrimitive P s = .next ((s.setWalk (edgeWalk s.toCtx P).walk).setPixel p) := by
  simp only [runPrimitive, hclear, drawPrimitive, h]
  rfl

section
variable {c : Ctx} {range : Int × Nat}

/-- A primitive on the target of crash `n` crashes at its start, but a fill under `withScanline` needs a valid scanline
(R740, R754, log entry 10). -/
theorem entryCrash_illegalTarget {n : CrashName}
    (h : (c.regs.om.cycleType = .fill ∧ c.regs.fbSize = .b4 ∧ n = .fill4BitTarget) ∨
      (c.regs.om.cycleType = .copy ∧ c.regs.fbSize = .b32 ∧ n = .copy32BitTarget)) :
    entryCrash c range =
      if c.regs.om.cycleType = .copy ∨ c.params.fill4Check = .always ∨ hasScanline c range = true then some n else none := by
  rcases h with ⟨hcycle, hsize, rfl⟩ | ⟨hcycle, hsize, rfl⟩
  · cases hcheck : c.params.fill4Check <;> simp [entryCrash, hcycle, hsize, fill4Crashes, hcheck]
  · simp [entryCrash, hcycle, hsize]

/-- Without a crash at its start a primitive whose scanlines are all invalid is nothing (R623). -/
theorem renderSpans_of_no_scanline (hentry : entryCrash c range = none) (hnone : hasScanline c range = false) (p : Pixel) :
    renderSpans c range p = .ok p := by
  have hround (k : Nat) (hk : k < range.2) : renderStep c range (range.1 + k) p = .ok p := by
    have hinvalid : (spanAt c.params c.walk (range.1 + k)).validline = false :=
      Bool.eq_false_of_not_eq_true (fun hvalid => by simp [hasScanline_iff.2 ⟨k, hk, hvalid⟩] at hnone)
    rw [renderStep, hinvalid, Bool.not_false, Bool.or_true, if_pos rfl]
  obtain ⟨q, hq, rfl⟩ := forE_total (f := fun n p => renderStep c range (range.1 + n) p) (Q := (p = ·))
    (n := range.2) (i := 0)
    (fun k q _ hk hq => ⟨q, by rw [← hq]; exact hround k (by omega), hq⟩) rfl
  rwa [renderSpans, hentry]

end

/-- Settles O19: the crash is checked before any scanline; where the 4-bit check waits for a scanline and there is none, nothing
is drawn either. -/
theorem illegalTargetsCrash : Obligations.IllegalTargetsCrash := by
  unfold Obligations.IllegalTargetsCrash
  intro i P s n hparams hclear c drawn htarget
  have hentry := entryCrash_illegalTarget (c := c) (range := renderRange c P) htarget
  rw [exec_primitive hparams]
  by_cases hcrash : s.regs.om.cycleType = .copy ∨ s.params.fill4Check = .always ∨ drawn
  · have hsome : entryCrash c (renderRange c P) = some n :=
      hentry.trans (if_pos (hcrash.imp_right (Or.imp_right hasScanline_iff.2)))
    refine ⟨_, runPrimitive_of_renderSpans hclear (renderSpans_entryCrash hsome _), crashLatch_host n _, rfl, rfl, rfl, rfl,
      fun _ => ⟨crashLatch_crashed n _, crashLatch_warned n _, crashLatch_diag n _⟩, fun hfill hcheck hnot => ?_⟩
    simp [hfill, hcheck, hnot] at hcrash
  · have hnone : hasScanline c (renderRange c P) = false :=
      Bool.eq_false_of_not_eq_true (fun h => hcrash (.inr (.inr (hasScanline_iff.1 h))))
    have hentry : entryCrash c (renderRange c P) = none :=
      hentry.trans (if_neg (fun h => hcrash (h.imp_right (Or.imp_right hasScanline_iff.1))))
    exact ⟨_, runPrimitive_of_renderSpans hclear (renderSpans_of_no_scanline hentry hnone _), rfl, rfl, rfl, rfl, rfl,
      fun h => absurd h hcrash, fun _ _ _ => ⟨hclear, rfl, rfl⟩⟩

/-! ## Image read or depth compare in fill mode (R740, FILL_KILL_MODE standard) -/

/-- If every round adds its own `hit` to what `C` depends on, then the loop adds those of its rounds. -/
theorem forE_iff_exists {σ : Type} {f : Nat → σ → Except Fault σ} {C : σ → Prop} {hit : Nat → Prop} :
    ∀ {n i : Nat} {s s' : σ}, (∀ j t t', i ≤ j → j < i + n → f j t = .ok t' → (C t' ↔ C t ∨ hit j)) →
      forE f i n s = .ok s' → (C s' ↔ C s ∨ ∃ j, i ≤ j ∧ j < i + n ∧ hit j)
  | 0, i, s, s', _, h => by
    cases h
    exact ⟨.inl, fun h => h.elim id (fun ⟨j, hi, hj, _⟩ => by omega)⟩
  | n + 1, i, s, s', hround, h => by
    simp only [forE] at h
    split at h
    next t ht =>
      rw [forE_iff_exists (fun j u u' hi hj => hround j u u' (by omega) (by omega)) h,
        hround i s t le_rfl (by omega) ht, or_assoc]
      refine or_congr_right ⟨?_, ?_⟩
      · rintro (hhit | ⟨j, hi, hj, hhit⟩)
        · exact ⟨i, le_rfl, by omega, hhit⟩
        · exact ⟨j, by omega, by omega, hhit⟩
      · rintro ⟨j, hi, hj, hhit⟩
        rcases Nat.eq_or_lt_of_le hi with rfl | hlt
        · exact .inl hhit
        · exact .inr ⟨j, hlt, by omega, hhit⟩
    next => cases h

/-- A fill that crashes before the first pixel it meets: `fastkill` of R740 under FILL_KILL_MODE's default. -/
structure FastKills (c : Ctx) : Prop where
  cycle : c.regs.om.cycleType = .fill
  size : c.regs.fbSize ≠ .b4
  kill : c.params.fillKillMode = .standard
  reads : c.regs.om.imageReadEn = true ∨ c.regs.om.zCompareEn = true

/-- A scanline with a pixel. -/
def HasPixel (c : Ctx) (i : Int) : Prop := (spanAt c.params c.walk i).validline = true ∧ 0 ≤ fillLength c i

section
variable {c : Ctx} {range : Int × Nat} {p p' : Pixel}

theorem FastKills.lineKill (hc : FastKills c) (range : Int × Nat) (i : Int) :
    lineKill c range i = if fillLength c i < 0 then none else some 0 := by
  simp [Machine.lineKill, hc.kill, hc.reads]

theorem FastKills.entryCrash (hc : FastKills c) (range : Int × Nat) : entryCrash c range = none := by
  simp [Machine.entryCrash, hc.cycle, hc.size, killsAtEntry, hc.kill]

theorem pixelCount_of_neg {len : Int} (h : len < 0) : pixelCount len = 0 := by
  unfold pixelCount
  omega

/-- Such a scanline draws nothing, and crashes where it has a pixel. -/
theorem FastKills.lineFill (hc : FastKills c) (range : Int × Nat) (i : Int) (p : Pixel) :
    lineFill c range i p = .ok (if fillLength c i < 0 then p else crashLatch .fillModeReadDepthBits p) := by
  rw [Machine.lineFill, hc.lineKill]
  by_cases hlength : fillLength c i < 0
  · rw [if_pos hlength, if_pos hlength, pixelCount_of_neg hlength]
    rfl
  · rw [if_neg hlength, if_neg hlength]
    simp only [Nat.zero_min]
    rfl

theorem FastKills.renderStep (hc : FastKills c) {i : Int} (h : renderStep c range i p = .ok p') :
    p'.host = p.host ∧ (p'.crashed = true ↔ p.crashed = true ∨ HasPixel c i) := by
  unfold Machine.renderStep at h
  split at h
  next hskip =>
    cases h
    refine ⟨rfl, .inl, fun hor => hor.elim id (fun ⟨hvalid, _⟩ => ?_)⟩
    simpa [hvalid] using hskip
  next hdraw =>
    obtain ⟨hclear, hvalid⟩ : p.crashed = false ∧ (spanAt c.params c.walk i).validline = true := by simpa using hdraw
    rw [renderLine, hc.cycle] at h
    simp only [hc.lineFill, Except.ok.injEq] at h
    subst h
    split
    next hneg => simp [hclear, HasPixel, Int.not_le.2 hneg]
    next hlength => simp [HasPixel, hvalid, Int.not_lt.1 hlength]

/-- Such a primitive draws nothing, and crashes exactly if a scanline of its range has a pixel. -/
theorem FastKills.renderSpans (hc : FastKills c) (h : renderSpans c range p = .ok p') :
    p'.host = p.host ∧ (p'.crashed = true ↔ p.crashed = true ∨ ∃ k < range.2, HasPixel c (range.1 + k)) := by
  rw [Machine.renderSpans, hc.entryCrash] at h
  have hhost : p'.host = p.host :=
    forE_inv (Q := fun q => q.host = p.host) (fun _ _ _ _ _ hq hr => (hc.renderStep hr).1.trans hq) rfl h
  have hlatch := forE_iff_exists (C := fun q : Pixel => q.crashed = true) (hit := fun k => HasPixel c (range.1 + k))
    (fun _ _ _ _ _ hr => (hc.renderStep hr).2) h
  exact ⟨hhost, by simpa using hlatch⟩

end

/-- Settles O20: no scanline of the fill draws, and the first one with a pixel latches. -/
theorem fastKillDrawsNothing : Obligations.FastKillDrawsNothing := by
  unfold Obligations.FastKillDrawsNothing
  intro i P s t hparams hclear hcycle hsize hkill hreads hexec
  rw [exec_primitive hparams] at hexec
  rcases runPrimitive_next hexec with ⟨hset, -⟩ | ⟨-, p, hrender, rfl⟩
  · rw [hclear] at hset
    cases hset
  · have hc : FastKills (edgeWalk s.toCtx P) := ⟨hcycle, hsize, hkill, hreads⟩
    obtain ⟨hhost, hlatch⟩ := hc.renderSpans hrender
    simp only [edgeGradients_crashed, hclear, Bool.false_eq_true, false_or] at hlatch
    exact ⟨hhost, hlatch⟩

end Sys2Proof.Machine
end

section
/-! A pixel reads back as it was written (R712, R713, 45_color_pipeline.md): its bytes and its hidden field do, and unpacking them
undoes the packing up to the bits a 16-bit image has no room for. -/

namespace Sys2Proof.Machine

open Sys2Proof.Config

/-! ## Paired accesses (R207, R208) -/

section
variable {P : Params} {m m' : HostMem} {a : Int} {v : Nat}

theorem memRead_hidWrite (P : Params) (m : HostMem) (h : Int) (b : Nat) (a : Int) (n : Nat) :
    memRead P (hidWrite P m h b) a n = memRead P m a n := by
  simp only [memRead, readBytes, hidWrite_byte]

theorem hidRead_hidWrite_same (hm : Memory.wf m = true) {h : Int} (hrange : maskAddr P (2 * h) < P.rdramSize) (b : Nat) :
    hidRead P (hidWrite P m h b) h = b % 4 := by
  rw [hidRead, hidWrite, if_pos hrange, if_pos hrange, HostMem.hidden_setHidden hm, if_pos rfl, BitVec.toNat_ofNat]

/-- A byte, halfword or word reads back what was written to it (R205). -/
theorem memRead_writeBytes (hm : Memory.wf m = true) (hmask : P.addrMask % 4 = 3) {n : Nat} (hn : n = 1 ∨ n = 2 ∨ n = 4)
    (hv : v < 256 ^ n) (hrange : outOfRange P a n = none) : memRead P (writeBytes P m a n v) a n = .ok v :=
  (memoryReadsWhatWasWritten P m _ a n v hm hn hmask hv hrange (memWrite_of_inRange hrange m v)).1

theorem writePair16_readsBack (hm : Memory.wf m = true) (hmask : P.addrMask % 4 = 3) {hb : Nat} (hv : v < 65536)
    (heven : a % 2 = 0) (hrange : outOfRange P a 2 = none) (h : writePair16 P m a v hb = .ok m') :
    memRead P m' a 2 = .ok v ∧ hidRead P m' (a >>> 1) = hb % 4 := by
  rw [writePair16, writeIf, hrange] at h
  cases h
  refine ⟨by rw [memRead_hidWrite, memRead_writeBytes hm hmask (by decide) hv hrange],
    hidRead_hidWrite_same (writeBytes_wf hm a 2 v) ?_ hb⟩
  have hfirst := outOfRange_eq_none.1 hrange 0 (by decide)
  rw [shiftRight_one, show 2 * (a / 2) = a + (0 : Nat) by omega]
  exact hfirst

theorem writePair32_readsBack (hm : Memory.wf m = true) (hmask : P.addrMask % 4 = 3) {hHi hLo : Nat} (hv : v < 256 ^ 4)
    (hrange : outOfRange P a 4 = none) (h : writePair32 P m a v hHi hLo = .ok m') : memRead P m' a 4 = .ok v := by
  rw [writePair32, writeIf, hrange] at h
  cases h
  rw [memRead_hidWrite, memRead_hidWrite, memRead_writeBytes hm hmask (by decide) hv hrange]

end

/-! ## Packed pixels (R712, R713) -/

theorem and_0xff (x : Nat) : x &&& 0xff = x % 256 := Nat.and_two_pow_sub_one_eq_mod x 8

/-- The high five bits of a byte. -/
theorem and_0xf8 (x : Nat) : x &&& 0xf8 = x % 256 / 8 * 8 := by
  have hbyte : x &&& 0xff < 2 ^ (3 + 5) := Nat.and_lt_two_pow x (by decide)
  calc x &&& 0xf8 = x &&& 0xff &&& (2 ^ 5 - 1) <<< 3 := (Nat.and_assoc x 0xff 0xf8).symm
    _ = (x &&& 0xff) / 8 * 8 := and_high_mask hbyte
    _ = x % 256 / 8 * 8 := by rw [and_0xff]

/-- The high three bits of a byte. -/
theorem and_0xe0 (x : Nat) : x &&& 0xe0 = x % 256 / 32 * 32 := by
  have hbyte : x &&& 0xff < 2 ^ (5 + 3) := Nat.and_lt_two_pow x (by decide)
  calc x &&& 0xe0 = x &&& 0xff &&& (2 ^ 3 - 1) <<< 5 := (Nat.and_assoc x 0xff 0xe0).symm
    _ = (x &&& 0xff) / 32 * 32 := and_high_mask hbyte
    _ = x % 256 / 32 * 32 := by rw [and_0xff]

theorem and_0x7 (x : Nat) : x &&& 7 = x % 8 := Nat.and_two_pow_sub_one_eq_mod x 3
theorem and_0x3 (x : Nat) : x &&& 3 = x % 4 := Nat.and_two_pow_sub_one_eq_mod x 2

section
variable {v : Rgb Nat} {fc : Nat}

/-- The fields of a 16-bit RGBA pixel. -/
theorem pack16_rgba (hg : v.g < 256) (hb : v.b < 256) (hfc : fc < 8) :
    pack16 true v fc = (v.r / 8 * 2048 + (v.g / 8 * 64 + (v.b / 8 * 2 + fc / 4)), fc % 4) := by
  have hcvg : fc >>> 2 &&& 1 = fc / 4 := by
    rw [Nat.and_one_is_mod, Nat.shiftRight_eq_div_pow]
    omega
  have hblue : (v.b >>> 3) <<< 1 ||| fc / 4 = v.b / 8 * 2 + fc / 4 := by
    rw [← Nat.shiftLeft_add_eq_or_of_lt (by omega), Nat.shiftLeft_eq, Nat.shiftRight_eq_div_pow]
  have hgreen : (v.g >>> 3) <<< 6 ||| (v.b / 8 * 2 + fc / 4) = v.g / 8 * 64 + (v.b / 8 * 2 + fc / 4) := by
    rw [← Nat.shiftLeft_add_eq_or_of_lt (by omega), Nat.shiftLeft_eq, Nat.shiftRight_eq_div_pow]
  rw [pack16, if_pos rfl, hcvg, Nat.or_assoc, hblue, Nat.or_assoc, hgreen, ← Nat.shiftLeft_add_eq_or_of_lt (by omega),
    Nat.shiftLeft_eq, Nat.shiftRight_eq_div_pow, and_0x3]

/-- The fields of a 32-bit pixel. -/
theorem pack32_eq (hg : v.g < 256) (hb : v.b < 256) (hfc : fc < 8) :
    pack32 v fc = v.r * 16777216 + (v.g * 65536 + (v.b * 256 + fc * 32)) := by
  have hblue : v.b <<< 8 ||| fc * 32 = v.b * 256 + fc * 32 := by
    rw [← Nat.shiftLeft_add_eq_or_of_lt (by omega), Nat.shiftLeft_eq]
  have hgreen : v.g <<< 16 ||| (v.b * 256 + fc * 32) = v.g * 65536 + (v.b * 256 + fc * 32) := by
    rw [← Nat.shiftLeft_add_eq_or_of_lt (by omega), Nat.shiftLeft_eq]
  rw [pack32, Nat.shiftLeft_eq fc 5, Nat.or_assoc, hblue, Nat.or_assoc, hgreen, ← Nat.shiftLeft_add_eq_or_of_lt (by omega),
    Nat.shiftLeft_eq]

theorem unpack16_pack16 (hr : v.r < 256) (hg : v.g < 256) (hb : v.b < 256) (hfc : fc < 8) :
    unpack16 true true (pack16 true v fc).1 (pack16 true v fc).2 =
      { color := rgba8 (v.r / 8 * 8) (v.g / 8 * 8) (v.b / 8 * 8) (fc * 32), memcvg := fc } := by
  rw [pack16_rgba hg hb hfc]
  generalize hw : v.r / 8 * 2048 + (v.g / 8 * 64 + (v.b / 8 * 2 + fc / 4)) = w
  have hcvg : memCvg16 true w (fc % 4) = fc := by
    rw [memCvg16, if_pos rfl, Nat.and_one_is_mod, ← Nat.shiftLeft_add_eq_or_of_lt (Nat.mod_lt _ (by decide)), Nat.shiftLeft_eq]
    omega
  have hred : w >>> 8 &&& 0xf8 = v.r / 8 * 8 := by
    rw [and_0xf8, Nat.shiftRight_eq_div_pow]
    omega
  have hgreen : w >>> 3 &&& 0xf8 = v.g / 8 * 8 := by
    rw [and_0xf8, Nat.shiftRight_eq_div_pow]
    omega
  have hblue : w <<< 2 &&& 0xf8 = v.b / 8 * 8 := by
    rw [and_0xf8, Nat.shiftLeft_eq]
    omega
  have halpha : fc <<< 5 = fc * 32 := Nat.shiftLeft_eq fc 5
  simp only [unpack16, if_true, hcvg, hred, hgreen, hblue, halpha]

theorem unpack32_pack32 (hg : v.g < 256) (hb : v.b < 256) (hfc : fc < 8) :
    unpack32 true (pack32 v fc) = { color := rgba8 v.r v.g v.b (fc * 32), memcvg := fc } := by
  rw [pack32_eq hg hb hfc]
  generalize hw : v.r * 16777216 + (v.g * 65536 + (v.b * 256 + fc * 32)) = w
  have hbyte {x y : Nat} (h : x % 256 = y % 256) : BitVec.ofNat 8 x = BitVec.ofNat 8 y :=
    BitVec.eq_of_toNat_eq (by simpa using h)
  have hred : BitVec.ofNat 8 (w >>> 24) = BitVec.ofNat 8 v.r := hbyte (by rw [Nat.shiftRight_eq_div_pow]; omega)
  have hgreen : BitVec.ofNat 8 (w >>> 16) = BitVec.ofNat 8 v.g := hbyte (by rw [Nat.shiftRight_eq_div_pow]; omega)
  have hblue : BitVec.ofNat 8 (w >>> 8) = BitVec.ofNat 8 v.b := hbyte (by rw [Nat.shiftRight_eq_div_pow]; omega)
  have halpha : w &&& 0xe0 = fc * 32 := by
    rw [and_0xe0]
    omega
  have hcvg : w >>> 5 &&& 7 = fc := by
    rw [and_0x7, Nat.shiftRight_eq_div_pow]
    omega
  simp only [unpack32, if_true, rgba8, hred, hgreen, hblue, halpha, hcvg]

end

/-! ## The framebuffer -/

/-- Settles O48: the packed pixel reads back, and unpacking it gives the colour and the coverage. -/
theorem framebufferReadsBack : Obligations.FramebufferReadsBack := by
  unfold Obligations.FramebufferReadsBack
  intro c m m' n v fc hm hmask hr hg hb hfc hread hrange hstore
  refine ⟨fun hsize hformat => ?_, fun hsize => ?_⟩
  · rw [hsize, pixelBytes] at hrange
    simp only [fbStore, hsize, hformat, show ((0 : BitVec 3) == fmtRgba) = true from rfl] at hstore
    have heven : fbPixelAddr c.regs n % 2 = 0 := by
      rw [fbPixelAddr_b16 hsize, base16]
      omega
    have hpack := pack16_rgba (v := v) hg hb hfc
    obtain ⟨hbytes, hhidden⟩ := writePair16_readsBack hm hmask (by rw [hpack]; simp only; omega) heven hrange hstore
    rw [Nat.mod_eq_of_lt (by rw [hpack]; exact Nat.mod_lt _ (by decide))] at hhidden
    simp only [fbRead, hsize, hformat, hread, hbytes, hhidden, show ((0 : BitVec 3) == fmtRgba) = true from rfl,
      unpack16_pack16 hr hg hb hfc, rgba8]
  · rw [hsize, pixelBytes] at hrange
    simp only [fbStore, hsize] at hstore
    have hbytes := writePair32_readsBack hm hmask (by rw [pack32_eq hg hb hfc]; omega) hrange hstore
    simp only [fbRead, hsize, hread, hbytes, unpack32_pack32 hg hb hfc, rgba8]

end Sys2Proof.Machine
end

section
/-! Texture coordinates and texels (44_texture_pipeline.md): a mask of low bits is a remainder, so a masked coordinate wraps or
mirrors into its mask (R813); a texel of a format and size outside R822's table is drawn free (R823). -/

namespace Sys2Proof.Machine

open Sys2Proof.Config

/-! ## Masks of low bits (R13) -/

theorem iand_two_pow_sub_one (v : Int) (n : Nat) : (iand v (2 ^ n - 1) : Int) = v % 2 ^ n := by
  have hlt : iand v (2 ^ n - 1) < 2 ^ n := iand_lt v (Nat.sub_lt (Nat.two_pow_pos n) Nat.one_pos)
  have hones : BitVec.ofNat n (2 ^ n - 1) = BitVec.allOnes n := BitVec.eq_of_toNat_eq (by simp)
  have hword : BitVec.ofNat n (iand v (2 ^ n - 1)) = BitVec.ofInt n v := by
    rw [ofNat_iand, hones, BitVec.and_allOnes]
  have htoNat := congrArg BitVec.toNat hword
  rw [BitVec.toNat_ofNat, Nat.mod_eq_of_lt hlt, BitVec.toNat_ofInt] at htoNat
  rw [htoNat, Int.toNat_of_nonneg (Int.emod_nonneg _ (by positivity)), Nat.cast_pow, Nat.cast_ofNat]

theorem hasBits_one (v : Int) : hasBits v 1 = decide (v % 2 = 1) := by
  have hlow : (iand v 1 : Int) = v % 2 := iand_two_pow_sub_one v 1
  rw [hasBits, Bool.eq_iff_iff, bne_iff_ne, decide_eq_true_eq]
  omega

/-- The low bits of a complement are the complement of the low bits. -/
theorem inot_emod (c : Int) {N : Int} (hN : 0 < N) : inot c % N = N - 1 - c % N := by
  have hnonneg : 0 ≤ c % N := Int.emod_nonneg c hN.ne'
  have hlt : c % N < N := Int.emod_lt_of_pos c hN
  have hsplit : inot c = N - 1 - c % N + N * (-(c / N) - 1) := by
    rw [inot, Int.emod_def]
    ring
  rw [hsplit, Int.add_mul_emod_self_left, Int.emod_eq_of_lt (by omega) (by omega)]

/-! ## Wrap and mirror (R813) -/

/-- A masked coordinate is a remainder: of the coordinate, or of its complement where mirror is on and the repeat is odd. -/
theorem wrapCoord_of_mask {x : TileAxis} (hmask : x.mask ≠ 0) (c : Int) :
    wrapCoord x c =
      xorSign c (x.mirror && decide (c / 2 ^ min x.mask 10 % 2 = 1)) % 2 ^ min x.mask 10 := by
  have hbits : x.maskBits = 2 ^ min x.mask 10 - 1 := by
    rw [TileAxis.maskBits, if_neg (by simpa using hmask), Nat.one_shiftLeft]
  rw [wrapCoord, if_pos hmask, hbits, iand_two_pow_sub_one, hasBits_one, TileAxis.maskClamped, Int.shiftRight_eq_div_pow,
    Nat.cast_pow, Nat.cast_ofNat]

/-- Settles O59: a masked coordinate is a remainder modulo the mask's power, and the remainder of a complement is the complement
of the remainder. -/
theorem wrapStaysInTheMask : Obligations.WrapStaysInTheMask := by
  unfold Obligations.WrapStaysInTheMask
  intro x c hmask
  have hpos : (0 : Int) < 2 ^ min x.mask 10 := by positivity
  rw [wrapCoord_of_mask hmask]
  refine ⟨Int.emod_nonneg _ hpos.ne', Int.emod_lt_of_pos _ hpos, fun hmirror => ?_, fun hmirror heven => ?_,
    fun hmirror hodd => ?_⟩
  · simp [hmirror, xorSign]
  · simp [heven, xorSign]
  · simp [hmirror, hodd, xorSign, inot_emod c hpos]

/-! ## Texels without a decode (R822, R823) -/

/-- The formats and sizes of R822's table. -/
def decodedPairs : List (Nat × PixSize) :=
  [(0, .b16), (0, .b32), (1, .b16), (2, .b4), (2, .b8), (3, .b4), (3, .b8), (3, .b16), (4, .b4), (4, .b8)]

/-- Only a format and size of R822's table has a decode that counts as one of R822's. -/
theorem mem_decodedPairs_of_texelDecode {m : List Host.Cell} {tl : Tile} {s t : Int} {v : Rgba Int}
    (h : texelDecode m tl s t = some (v, true)) : (tl.format.toNat, tl.size) ∈ decodedPairs := by
  unfold texelDecode at h
  split at h
  case h_1 | h_2 | h_3 | h_4 | h_5 | h_6 | h_7 | h_8 | h_9 | h_10 =>
    rename_i hformat hsize
    rw [hformat, hsize]
    decide
  all_goals cases h

/-- Under UNKNOWN_TEXEL's default an unknown texel is drawn, whatever its recalled decode. -/
theorem unknownTexel_of_draw {P : Params} (h : P.unknownTexel = .draw) (p : Pixel) (r : Option (Rgba Int)) :
    unknownTexel P p r =
      .ok (drawnTexel (freeBits p.draws), { p with diag := p.diag ++ [.unknownTextureFormat], draws := p.draws + 1 }) := by
  unfold unknownTexel
  rw [h]
  rfl

/-- Without TLUT a texel outside R822's table is an unknown one. -/
theorem fetchTexel_of_notMem_decodedPairs {c : Ctx} {tl : Tile} (htlut : c.regs.om.enTlut = false)
    (hpair : (tl.format.toNat, tl.size) ∉ decodedPairs) (p : Pixel) (s t : Int) (lane : Nat) :
    ∃ r, fetchTexel c p tl s t lane = unknownTexel c.params p r := by
  rw [fetchTexel, if_neg (by simp [htlut])]
  split
  next v hdecode => exact absurd (mem_decodedPairs_of_texelDecode hdecode) hpair
  next v _ => exact ⟨some v, rfl⟩
  next => exact ⟨none, rfl⟩

/-- Settles O60: a listed pair is none of R822's table, whose formats are all below 5, and an unknown texel is drawn. -/
theorem unknownTexelsAreFree : Obligations.UnknownTexelsAreFree := by
  unfold Obligations.UnknownTexelsAreFree
  intro c p tl s t lane htlut hdraw hlisted
  have hpair : (tl.format.toNat, tl.size) ∉ decodedPairs := by
    intro hmem
    rcases hlisted with hformat | hlisted
    · have hbelow : ∀ q ∈ decodedPairs, q.1 < 5 := by decide
      exact absurd (hbelow _ hmem) (by omega)
    · have hdisjoint : ∀ q ∈ decodedPairs, q ∉ [(0, PixSize.b4), (0, .b8), (2, .b16), (2, .b32), (3, .b32), (4, .b16),
          (4, .b32), (1, .b4), (1, .b8), (1, .b32)] := by decide
      exact hdisjoint _ hmem hlisted
  obtain ⟨r, hfetch⟩ := fetchTexel_of_notMem_decodedPairs htlut hpair p s t lane
  rw [hfetch, unknownTexel_of_draw hdraw]

end Sys2Proof.Machine
end

section
/-! The combiner and the blender (45_combiner_blender.md): Ext9 and Clamp9 as arithmetic (R901), a combine cycle whose two sub
inputs agree passes its add input on (R903, R906), and the blender's gates and its unblended pixel (R922 to R930). -/

namespace Sys2Proof.Machine

open Sys2Proof.Config

/-! ## The clamp tables (R901) -/

section
variable {v : Nat}

/-- The two high bits of a 9-bit field are both set from 0x180 on, and there Ext9 is negative. -/
theorem ext9_of_lt (hv : v < 512) : ext9 v = if 384 ≤ v then (v : Int) - 512 else v := by
  have hhigh : v &&& 0x180 = v / 128 * 128 := and_high_mask (i := 7) (n := 2) hv
  have hset : v / 128 * 128 = 384 ↔ 384 ≤ v := by omega
  simp only [ext9, hhigh, hset]

theorem ext9_bounds (hv : v < 512) : -128 ≤ ext9 v ∧ ext9 v ≤ 383 := by
  rw [ext9_of_lt hv]
  split <;> omega

theorem ext9_mod (hv : v < 512) : ext9 v % 512 = v := by
  rw [ext9_of_lt hv]
  split <;> omega

theorem clamp9_of_byte (hv : v < 256) : clamp9 v = v := if_pos hv

/-- Clamp9 limits Ext9 to a byte: its three rows are the bytes, the values above them and the negative ones. -/
theorem clamp9_eq (hv : v < 512) : (clamp9 v : Int) = min 255 (max 0 (ext9 v)) := by
  rw [ext9_of_lt hv, clamp9]
  split_ifs <;> omega

end

/-- Settles O56: Ext9 takes 512 from the fields whose two high bits are set, and Clamp9 is Ext9 limited to a byte. -/
theorem clampTables : Obligations.ClampTables := by
  unfold Obligations.ClampTables
  intro v hv
  obtain ⟨hlow, hhigh⟩ := ext9_bounds hv
  exact ⟨hlow, hhigh, ext9_mod hv, clamp9_eq hv⟩

/-! ## The identity combine (R903, R906) -/

/-- The colour equation of equal sub inputs gives the add input back: the product is 0, and the rounding is shifted out. -/
theorem ceq_self_shiftRight (a c : Nat) {d : Nat} (hd : d < 512) : ceq a a c d >>> 8 = d := by
  have hmod := ext9_mod hd
  have hceq : (ceq a a c d : Int) = (ext9 d * 256 + 128) % 2 ^ 17 := by
    rw [ceq, sub_self, zero_mul, zero_add]
    exact iand_two_pow_sub_one _ 17
  rw [Nat.shiftRight_eq_div_pow]
  omega

/-- Selectors 8 to 15 of `sub_a_rgb` are ZERO (R902). -/
theorem subAInput_zero (x : CombineInputs) {sel : BitVec 4} (h : 8 ≤ sel.toNat) (ch : Chan) : subAInput x sel ch = 0 := by
  rw [subAInput, if_neg (by omega), if_neg (by omega), if_neg (by omega)]

/-- Selectors 8 to 15 of `sub_b_rgb` are ZERO (R902). -/
theorem subBInput_zero (x : CombineInputs) {sel : BitVec 4} (h : 8 ≤ sel.toNat) (ch : Chan) : subBInput x sel ch = 0 := by
  rw [subBInput, if_neg (by omega), if_neg (by omega), if_neg (by omega)]

theorem addInput_one (x : CombineInputs) (ch : Chan) : addInput x 1 ch = ch.of x.texel0 := rfl

/-- Without chroma key a cycle that subtracts ZERO from ZERO and adds TEXEL0 has the texel's channel as its colour. -/
theorem finalColor_texel0 {om : OtherModes} {k : CombineCycle} {x : CombineInputs} {ch : Chan} (hkey : om.keyEn = false)
    (ha : 8 ≤ k.subArgb.toNat) (hb : 8 ≤ k.subBrgb.toNat) (hadd : k.addRgb = 1) (hbyte : ch.of x.texel0 < 256) :
    finalColor om k x ch = ch.of x.texel0 := by
  rw [finalColor, if_neg (by simp [hkey]), cycleColor, subAInput_zero x ha, subBInput_zero x hb, hadd, addInput_one,
    ceq_self_shiftRight _ _ (by omega), clamp9_of_byte hbyte]

/-- Settles O57: each channel is `finalColor` of cycle 1. What `mul` selects does not matter, for it multiplies 0. -/
theorem identityCombine : Obligations.IdentityCombine := by
  unfold Obligations.IdentityCombine
  intro c x adith cvg hkey ha hb _ hadd hr hg hbl
  exact ⟨finalColor_texel0 (ch := .r) hkey ha hb hadd hr, finalColor_texel0 (ch := .g) hkey ha hb hadd hg,
    finalColor_texel0 (ch := .b) hkey ha hb hadd hbl⟩

/-! ## The blender (R922 to R930, R1033) -/

section
variable {c : Ctx} {p : Pixel} {q : CombinedPixel} {sa d : Nat} {k : BlendCtl}

theorem coverageTest_eq_false {om : OtherModes} {cvg : Nat} {cvbit : Bool}
    (h : (om.antialiasEn = true ∧ cvg = 0) ∨ (om.antialiasEn = false ∧ cvbit = false)) :
    coverageTest om cvg cvbit = false := by
  rcases h with ⟨haa, hcvg⟩ | ⟨haa, hbit⟩
  · simp [coverageTest, haa, hcvg]
  · simp [coverageTest, haa, hbit]

theorem coverageTest_eq_true {om : OtherModes} {cvg : Nat} {cvbit : Bool} (hcvg : om.antialiasEn = true → cvg ≠ 0)
    (hbit : om.antialiasEn = false → cvbit = true) : coverageTest om cvg cvbit = true := by
  cases haa : om.antialiasEn with
  | true => simp [coverageTest, haa, hcvg haa]
  | false => simp [coverageTest, haa, hbit haa]

/-- A pixel that fails the coverage test is not written, whatever the alpha compare answers. -/
theorem blend1_of_uncovered (h : coverageTest c.regs.om k.cvg k.cvbit = false) : (blend1 c p q sa d k).1 = none := by
  simp [blend1, h]

theorem blend2_of_uncovered (h : coverageTest c.regs.om k.cvg k.cvbit = false) : (blend2 c p q sa d k).1 = none := by
  simp [blend2, h]

theorem alphaCompare_off (h : c.regs.om.alphaCompareEn = false) (x : Nat) : alphaCompare c p x = (true, p) :=
  if_neg (by simp [h])

/-- A covered pixel that no alpha compare can reject is written as the final blend cycle leaves it. -/
theorem blend1_of_covered (hcompare : c.regs.om.alphaCompareEn = false)
    (hcover : coverageTest c.regs.om k.cvg k.cvbit = true) :
    (blend1 c p q sa d k).1 =
      some (blendFinal c (blendInputs c q.color p.memoryColor sa) c.regs.om.blend0 k q.color.a d) := by
  simp [blend1, alphaCompare_off hcompare, hcover]

/-- Without blending, dither and color_on_cvg the final blend cycle is its first colour input. -/
theorem blendFinal_unblended (honCvg : c.regs.om.colorOnCvg = false) (hblend : k.blendEn = false)
    (hdither : c.regs.om.rgbDitherSel = .none) (x : BlendInputs) (b : BlendSel) (pixelA : Nat) :
    blendFinal c x b k pixelA d = rgbPart (blendColor x b.m1a) := by
  simp [blendFinal, honCvg, hblend, hdither, rgbDither]

end

/-- Settles O58: the coverage test decides whether there is a write, and the unblended cycle's first input is the pixel. -/
theorem blenderGates : Obligations.BlenderGates := by
  unfold Obligations.BlenderGates
  intro c p q sa d k
  refine ⟨fun huncovered => ?_, fun hcompare honCvg hblend hdither hcvg hbit hpixel => ?_⟩
  · have htest := coverageTest_eq_false huncovered
    exact ⟨blend1_of_uncovered htest, blend2_of_uncovered htest⟩
  · rw [blend1_of_covered hcompare (coverageTest_eq_true hcvg hbit), blendFinal_unblended honCvg hblend hdither, hpixel]
    rfl

end Sys2Proof.Machine
end

section
/-! Depth (46_depth_coverage_dither.md sections 1 to 4): compression and decompression by the rows of the exponent table
(R1001 to R1004), a depth entry read back (R1009 to R1011), and the compare (R1016, R1018). -/

namespace Sys2Proof.Machine

open Sys2Proof.Config

/-! ## The exponent table (R1001 to R1004) -/

/-- The mantissa's eleven bits at their place in a halfword. -/
theorem and_0x1ffc (x : Nat) : x &&& 0x1ffc = x / 4 % 2048 * 4 := by
  have hfield : x &&& 0x1fff < 2 ^ (2 + 11) := Nat.and_lt_two_pow x (by decide)
  calc x &&& 0x1ffc = x &&& 0x1fff &&& (2 ^ 11 - 1) <<< 2 := (Nat.and_assoc x 0x1fff 0x1ffc).symm
    _ = (x &&& 0x1fff) / 4 * 4 := and_high_mask hfield
    _ = x / 4 % 2048 * 4 := by
      rw [show x &&& 0x1fff = x % 8192 from Nat.and_two_pow_sub_one_eq_mod x 13]
      omega

/-- The exponent's three bits lie above the mantissa. -/
theorem mantissa_or_exponent (m : Nat) {c : Nat} (hc : c % 8192 = 0) : m % 2048 * 4 ||| c = c + m % 2048 * 4 := by
  rw [show c = (c / 8192) <<< 13 by rw [Nat.shiftLeft_eq]; omega, Nat.or_comm, Nat.shiftLeft_add_eq_or_of_lt (by omega)]

/-- The depths of exponent `e`: the 2048 steps of `2 ^ shift` from `add` on (R1002). -/
def InDepthRow (e z : Nat) : Prop := e < 8 ∧ zAdd e ≤ z ∧ z < zAdd e + 2048 * 2 ^ zShift e

/-- The halfword of a depth of exponent `e`: the exponent, and the number of its step. -/
def depthEntry (e z : Nat) : Nat := e * 8192 + (z - zAdd e) / 2 ^ zShift e * 4

section
variable {e z : Nat}

/-- A row of the table, its two columns evaluated. -/
theorem depthRow_intro {v add step : Nat} (he : e < 8) (hadd : zAdd e = add) (hstep : 2 ^ zShift e = step)
    (h : add ≤ z ∧ z < add + 2048 * step ∧ v = e * 8192 + (z - add) / step * 4) :
    ∃ e, InDepthRow e z ∧ v = depthEntry e z := by
  subst hadd hstep
  obtain ⟨hlo, hhi, hv⟩ := h
  exact ⟨e, ⟨he, hlo, hhi⟩, hv⟩

/-- Each branch of the compression is a row of the exponent table. -/
theorem zCompress_eq_depthEntry (hz : z < 0x40000) : ∃ e, InDepthRow e z ∧ zCompress z = depthEntry e z := by
  have ht : z / 2 ^ 11 &&& 0x7f = z / 2048 := by
    rw [show z / 2 ^ 11 &&& 0x7f = z / 2 ^ 11 % 128 from Nat.and_two_pow_sub_one_eq_mod _ 7]
    omega
  simp (disch := decide) only [zCompress, Nat.shiftRight_eq_div_pow, Nat.shiftLeft_eq, ht, and_0x1ffc, mantissa_or_exponent]
  split_ifs
  · exact depthRow_intro (e := 0) (add := 0) (step := 64) (by decide) rfl rfl (by omega)
  · exact depthRow_intro (e := 1) (add := 0x20000) (step := 32) (by decide) rfl rfl (by omega)
  · exact depthRow_intro (e := 2) (add := 0x30000) (step := 16) (by decide) rfl rfl (by omega)
  · exact depthRow_intro (e := 3) (add := 0x38000) (step := 8) (by decide) rfl rfl (by omega)
  · exact depthRow_intro (e := 4) (add := 0x3c000) (step := 4) (by decide) rfl rfl (by omega)
  · exact depthRow_intro (e := 5) (add := 0x3e000) (step := 2) (by decide) rfl rfl (by omega)
  · exact depthRow_intro (e := 6) (add := 0x3f000) (step := 1) (by decide) rfl rfl (by omega)
  · exact depthRow_intro (e := 7) (add := 0x3f800) (step := 1) (by decide) rfl rfl (by omega)

/-- The rows do not overlap. -/
theorem InDepthRow.unique {e' : Nat} (h : InDepthRow e z) (h' : InDepthRow e' z) : e = e' := by
  have hapart : ∀ e < 8, ∀ e' < 8, e ≠ e' →
      zAdd e + 2048 * 2 ^ zShift e ≤ zAdd e' ∨ zAdd e' + 2048 * 2 ^ zShift e' ≤ zAdd e := by decide
  obtain ⟨he, hlo, hhi⟩ := h
  obtain ⟨he', hlo', hhi'⟩ := h'
  by_contra hne
  have := hapart e he e' he' hne
  omega

theorem InDepthRow.lt (h : InDepthRow e z) : z < 0x40000 := by
  have hend : ∀ e < 8, zAdd e + 2048 * 2 ^ zShift e ≤ 0x40000 := by decide
  obtain ⟨he, -, hhi⟩ := h
  exact hhi.trans_le (hend e he)

theorem InDepthRow.zCompress_eq (h : InDepthRow e z) : zCompress z = depthEntry e z := by
  obtain ⟨e', h', hentry⟩ := zCompress_eq_depthEntry h.lt
  rw [hentry, h'.unique h]

theorem InDepthRow.step_lt (h : InDepthRow e z) : (z - zAdd e) / 2 ^ zShift e < 2048 := by
  obtain ⟨-, hlo, hhi⟩ := h
  exact Nat.div_lt_of_lt_mul (by rw [Nat.mul_comm]; omega)

/-- The first depth of the step that `z` of exponent `e` lies in. -/
def depthFloor (e z : Nat) : Nat := zAdd e + (z - zAdd e) / 2 ^ zShift e * 2 ^ zShift e

theorem InDepthRow.depthFloor_bounds (h : InDepthRow e z) :
    depthFloor e z ≤ z ∧ z - depthFloor e z ≤ 2 ^ zShift e - 1 := by
  obtain ⟨-, hlo, -⟩ := h
  have hdiv := Nat.div_add_mod' (z - zAdd e) (2 ^ zShift e)
  have hmod := Nat.mod_lt (z - zAdd e) (Nat.two_pow_pos (zShift e))
  rw [depthFloor]
  omega

theorem InDepthRow.depthFloor_inDepthRow (h : InDepthRow e z) : InDepthRow e (depthFloor e z) := by
  have hle := h.depthFloor_bounds.1
  obtain ⟨he, -, hhi⟩ := h
  exact ⟨he, Nat.le_add_right _ _, hle.trans_lt hhi⟩

/-- A depth entry decompresses to the first depth of its step, whatever slope bits it holds (R1003, R1011). -/
theorem InDepthRow.zDecompress_depthEntry_add (h : InDepthRow e z) {d : Nat} (hd : d < 4) :
    zDecompress (depthEntry e z + d) = depthFloor e z := by
  have hfloor := h.depthFloor_inDepthRow.lt
  have hstep := h.step_lt
  obtain ⟨he, -, -⟩ := h
  generalize hm : (z - zAdd e) / 2 ^ zShift e = m at hstep
  have hexp : (depthEntry e z + d) >>> 13 &&& 7 = e := by
    rw [and_0x7, Nat.shiftRight_eq_div_pow, depthEntry, hm]
    omega
  have hmant : (depthEntry e z + d) >>> 2 &&& 0x7ff = m := by
    rw [and_0x7ff, Nat.shiftRight_eq_div_pow, depthEntry, hm]
    omega
  simp only [zDecompress, hexp, hmant, Nat.shiftLeft_eq]
  rw [show m * 2 ^ zShift e + zAdd e = depthFloor e z by rw [depthFloor, hm, Nat.add_comm],
    show depthFloor e z &&& 0x3ffff = depthFloor e z % 0x40000 from Nat.and_two_pow_sub_one_eq_mod _ 18,
    Nat.mod_eq_of_lt hfloor]

/-- Compressing again finds the same step. -/
theorem depthEntry_depthFloor (e z : Nat) : depthEntry e (depthFloor e z) = depthEntry e z := by
  rw [depthEntry, depthFloor, Nat.add_sub_cancel_left, Nat.mul_div_cancel _ (Nat.two_pow_pos _), ← depthEntry]

/-- The greatest error of each row (R1004). -/
theorem InDepthRow.error_eq (h : InDepthRow e z) :
    2 ^ zShift e - 1 =
      if z ≤ 0x1FFFF then 63 else if z ≤ 0x2FFFF then 31 else if z ≤ 0x37FFF then 15 else if z ≤ 0x3BFFF then 7
        else if z ≤ 0x3DFFF then 3 else if z ≤ 0x3EFFF then 1 else 0 := by
  have hrow {e' add step : Nat} (he : e' < 8) (hadd : zAdd e' = add) (hstep : 2 ^ zShift e' = step)
      (hin : add ≤ z ∧ z < add + 2048 * step) : 2 ^ zShift e - 1 = step - 1 := by
    subst hadd hstep
    rw [h.unique ⟨he, hin⟩]
  have hz := h.lt
  split_ifs
  · exact hrow (e' := 0) (add := 0) (step := 64) (by decide) rfl rfl (by omega)
  · exact hrow (e' := 1) (add := 0x20000) (step := 32) (by decide) rfl rfl (by omega)
  · exact hrow (e' := 2) (add := 0x30000) (step := 16) (by decide) rfl rfl (by omega)
  · exact hrow (e' := 3) (add := 0x38000) (step := 8) (by decide) rfl rfl (by omega)
  · exact hrow (e' := 4) (add := 0x3c000) (step := 4) (by decide) rfl rfl (by omega)
  · exact hrow (e' := 5) (add := 0x3e000) (step := 2) (by decide) rfl rfl (by omega)
  · rcases Nat.lt_or_ge z 0x3f800 with hlt | hge
    · exact hrow (e' := 6) (add := 0x3f000) (step := 1) (by decide) rfl rfl (by omega)
    · exact hrow (e' := 7) (add := 0x3f800) (step := 1) (by decide) rfl rfl (by omega)

end

/-- Settles O49: compression keeps the exponent and the step of a depth, and decompression gives the step's first depth. -/
theorem depthRoundTrip : Obligations.DepthRoundTrip := by
  unfold Obligations.DepthRoundTrip
  refine ⟨fun z hz => ?_, by decide⟩
  obtain ⟨e, hrow, hentry⟩ := zCompress_eq_depthEntry hz
  have hback : zDecompress (zCompress z) = depthFloor e z := by
    rw [hentry, ← Nat.add_zero (depthEntry e z), hrow.zDecompress_depthEntry_add (by decide)]
  obtain ⟨hle, herror⟩ := hrow.depthFloor_bounds
  rw [hback, ← hrow.error_eq]
  exact ⟨hle, herror, by rw [hrow.depthFloor_inDepthRow.zCompress_eq, depthEntry_depthFloor, hentry]⟩

/-! ## A depth entry read back (R1009 to R1011) -/

section
variable {P : Params} {m m' : HostMem} {a : Int} {v : Nat}

/-- A mask whose low `n` bits are set leaves those of a value. -/
theorem iand_emod_two_pow (v : Int) {m n : Nat} (h : m % 2 ^ n = 2 ^ n - 1) : (iand v m : Int) % 2 ^ n = v % 2 ^ n := by
  have hones : BitVec.ofNat n m = BitVec.allOnes n := BitVec.eq_of_toNat_eq (by simp [h])
  have hword : BitVec.ofNat n (iand v m) = BitVec.ofInt n v := by
    rw [ofNat_iand, hones, BitVec.and_allOnes]
  have htoNat := congrArg BitVec.toNat hword
  rw [BitVec.toNat_ofNat, BitVec.toNat_ofInt] at htoNat
  have hcast := congrArg (Nat.cast (R := Int)) htoNat
  rw [Int.toNat_of_nonneg (Int.emod_nonneg _ (by positivity))] at hcast
  exact_mod_cast hcast

/-- The two bytes of a halfword have different addresses under an odd mask. -/
theorem maskAddr_halfword_inj (h : P.addrMask % 2 = 1) :
    ∀ i < 2, ∀ j < 2, maskAddr P (a + (i : Nat)) = maskAddr P (a + (j : Nat)) → i = j := by
  intro i hi j hj heq
  have hbyte (k : Nat) := iand_emod_two_pow (a + k) (n := 1) h
  have hi' := hbyte i
  have hj' := hbyte j
  simp only [maskAddr] at heq
  rw [heq] at hi'
  omega

/-- An access whose bytes have different addresses reads back what was written to it (R205). -/
theorem readBytes_writeBytes_of_inj (hm : Memory.wf m = true) {n : Nat}
    (hinj : ∀ i < n, ∀ j < n, maskAddr P (a + (i : Nat)) = maskAddr P (a + (j : Nat)) → i = j) (hv : v < 256 ^ n) :
    readBytes P (writeBytes P m a n v) a n = v := by
  have hdigit (i : Nat) (hi : i < n) :
      ((writeBytes P m a n v).byte (maskAddr P (a + i))).toNat = v / 256 ^ (n - 1 - i) % 256 := by
    have hbytes := HostMem.byte_foldl_setByte hm (fun i : Nat => maskAddr P (a + i)) (beByte n v) n hinj
    rw [← beByte_toNat]
    exact congrArg BitVec.toNat (hbytes.2 i hi)
  have hall := foldl_digits_eq hv hdigit n le_rfl
  rwa [Nat.sub_self, Nat.pow_zero, Nat.div_one] at hall

/-- A halfword at an even address and its hidden field read back under every odd mask (R207, R208). -/
theorem writePair16_readsBack_of_odd_mask (hm : Memory.wf m = true) (hmask : P.addrMask % 2 = 1) {hb : Nat} (hv : v < 65536)
    (heven : a % 2 = 0) (hrange : outOfRange P a 2 = none) (h : writePair16 P m a v hb = .ok m') :
    memRead P m' a 2 = .ok v ∧ hidRead P m' (a >>> 1) = hb % 4 := by
  rw [writePair16, writeIf, hrange] at h
  cases h
  refine ⟨?_, hidRead_hidWrite_same (writeBytes_wf hm a 2 v) ?_ hb⟩
  · rw [memRead_hidWrite, memRead_of_inRange hrange, readBytes_writeBytes_of_inj hm (maskAddr_halfword_inj hmask) hv]
  · rw [shiftRight_one, show 2 * (a / 2) = a + (0 : Nat) by omega]
    exact outOfRange_eq_none.1 hrange 0 (by decide)

end

section
variable {v d : Nat}

/-- The high two bits of the slope code take the two low bits of the halfword (R1011). -/
theorem or_slopeCode (hd : d < 16) (hv : v % 4 = 0) : v ||| d >>> 2 = v + d / 4 := by
  have hshift : v = (v / 4) <<< 2 := by
    rw [Nat.shiftLeft_eq]
    omega
  have hlt : d / 4 < 2 ^ 2 := by omega
  rw [show d >>> 2 = d / 4 from Nat.shiftRight_eq_div_pow d 2, hshift, ← Nat.shiftLeft_add_eq_or_of_lt hlt]

/-- The halfword and the hidden field give the slope code back (R1010). -/
theorem slopeCode_readsBack (hd : d < 16) (hv : v % 4 = 0) : (v + d / 4 &&& 3) <<< 2 ||| d % 4 = d := by
  rw [and_0x3, ← Nat.shiftLeft_add_eq_or_of_lt (Nat.mod_lt d (by decide)), Nat.shiftLeft_eq]
  omega

end

/-- Settles O47: the compressed depth leaves the two low bits of the halfword to the slope code. -/
theorem depthEntryReadsBack : Obligations.DepthEntryReadsBack := by
  unfold Obligations.DepthEntryReadsBack
  intro c m m' n z d hm hmask hd hrange hstore
  have hz : z &&& 0x3ffff < 0x40000 := and_mask_lt (by decide)
  obtain ⟨e, hrow, hentry⟩ := zCompress_eq_depthEntry hz
  have hdepth := hrow.zDecompress_depthEntry_add (d := 0) (by decide)
  have heven : zbAddr c.regs n % 2 = 0 := by
    rw [zbAddr, base16]
    omega
  have hfour : depthEntry e (z &&& 0x3ffff) % 4 = 0 := by
    rw [depthEntry]
    omega
  have hsize : depthEntry e (z &&& 0x3ffff) + d / 4 < 65536 := by
    have hstep := hrow.step_lt
    obtain ⟨he, -, -⟩ := hrow
    rw [depthEntry]
    omega
  rw [zStore, hentry, or_slopeCode hd hfour] at hstore
  obtain ⟨hbytes, hhidden⟩ := writePair16_readsBack_of_odd_mask hm hmask hsize heven hrange hstore
  rw [and_0x3, Nat.mod_mod] at hhidden
  refine ⟨_, _, by rw [zRead, hbytes, hhidden], ?_, slopeCode_readsBack hd hfour⟩
  rw [hrow.zDecompress_depthEntry_add (by omega), hentry, ← hdepth, Nat.add_zero]

/-! ## The compare (R1016, R1018) -/

/-- Settles O50: the greatest entry is the farthest depth, which passes as such; nothing is in front of depth 0. -/
theorem depthCompareCorners : Obligations.DepthCompareCorners := by
  unfold Obligations.DepthCompareCorners
  intro om past sz dzpix dzpixenc cvg memcvg _
  have hfull : zDecompress 0xFFFF = 0x3ffff := by decide
  have hzero : zDecompress 0 = 0 := by decide
  have hslope : storedSlope 0 0 = (16, false) := by decide
  refine ⟨?_, fun hmode => ?_, fun hmode => ?_, fun hmode hpass => ?_⟩
  · rintro (hmode | hmode) <;> simp [zTest, hmode, hfull]
  · simp [zTest, hmode, hfull]
  · simp [zTest, hmode, hzero]
  · simp [zTest, hmode, hzero, hslope] at hpass
    rw [Nat.mul_comm, ← Nat.shiftLeft_eq _ 3]
    exact hpass.2

theorem zRead_hidden_lt {c : Ctx} {m : HostMem} {n : Int} {zval hval : Nat} (h : zRead c m n = .ok (zval, hval)) :
    hval < 4 := by
  unfold zRead at h
  split at h
  · cases h
    exact hidRead_lt _ _ _
  · cases h

section
variable {c : Ctx} {n : Int} {sz dzpix dzpixenc cvg memcvg : Nat}

theorem zCompare_off (h : c.regs.om.zCompareEn = false) (p : Pixel) :
    zCompare c p n sz dzpix dzpixenc cvg memcvg = .ok (zPassAll c.regs.om dzpixenc cvg memcvg, p) :=
  if_neg (by simp [h])

/-- The compare answers with the entry read, and keeps its slope code. -/
theorem zCompare_on (h : c.regs.om.zCompareEn = true) {p q : Pixel} {z : ZResult}
    (hz : zCompare c p n sz dzpix dzpixenc cvg memcvg = .ok (z, q)) :
    ∃ zval hval, zRead c p.host n = .ok (zval, hval) ∧
      q = { p with pastRawdzmem := BitVec.ofNat 4 (((zval &&& 3) <<< 2) ||| hval) } := by
  rw [zCompare, if_pos h] at hz
  split at hz
  next zval hval hread =>
    cases hz
    exact ⟨zval, hval, hread, rfl⟩
  next => cases hz

end

/-- Settles O51: off, the host memory is not looked at; on, the slope code is that of the entry read. -/
theorem depthCompareKeepsTheSlopeCode : Obligations.DepthCompareKeepsTheSlopeCode := by
  unfold Obligations.DepthCompareKeepsTheSlopeCode
  intro c n sz dzpix dzpixenc cvg memcvg
  refine ⟨fun hoff => ⟨_, rfl, rfl, zCompare_off hoff⟩, fun p q z hz hon => ?_⟩
  obtain ⟨zval, hval, hread, hq⟩ := zCompare_on hon hz
  have hcode : (zval &&& 3) <<< 2 ||| hval = 4 * (zval % 4) + hval := by
    rw [and_0x3, ← Nat.shiftLeft_add_eq_or_of_lt (zRead_hidden_lt hread), Nat.shiftLeft_eq, Nat.mul_comm]
  exact ⟨zval, hval, hread, by rw [hq, hcode]⟩

end Sys2Proof.Machine
end

section
/-! Coverage, dither and noise (46_depth_coverage_dither.md sections 5 to 7): the coverage buffer as a loop of cell updates
(R1030, R1031), the lookup of a coverage byte by its expanded mask (R1032), a dithered channel (R1043), the two noise sources
(R1044). -/

namespace Sys2Proof.Machine

open Sys2Proof.Config

/-! ## The coverage buffer (R1030, R1031) -/

theorem cvgAt_lt (b : List Host.Cell) (x : Int) : cvgAt b x < 256 := BitVec.isLt _

section
variable {b : List Host.Cell} {x y : Nat}

theorem cvgAt_cvgPut (hb : cvgInv b = true) (hx : x < 1024) (hy : y < 1024) (v : Nat) :
    cvgAt (cvgPut b x v) y = if y = x then v % 256 else cvgAt b y := by
  obtain ⟨hwf, -⟩ := cvgInv_iff.1 hb
  have hcell {k : Nat} (hk : k < 1024) : iand (k : Int) 0x3ff = k := by
    rw [iand_natCast, and_0x3ff, Nat.mod_eq_of_lt hk]
  rw [cvgAt, cvgAt, cvgPut, sparseGet_put_some hwf, hcell hx, hcell hy]
  split
  · exact BitVec.toNat_ofNat v 8
  · rfl

/-- A loop that updates one cell a round updates each cell of its range once, and no other. -/
theorem cvgAt_forP {g : Nat → Nat} (hg : ∀ v < 256, g v < 256) (hy : y < 1024) :
    ∀ {n i : Nat} {b : List Host.Cell}, cvgInv b = true → i + n ≤ 1024 →
      cvgAt (forP (fun x b => cvgPut b x (g (cvgAt b x))) i n b) y =
        if i ≤ y ∧ y < i + n then g (cvgAt b y) else cvgAt b y
  | 0, i, b, _, _ => (if_neg (by omega)).symm
  | n + 1, i, b, hb, hn => by
    have hbyte := Nat.mod_eq_of_lt (hg _ (cvgAt_lt b i))
    rw [forP, cvgAt_forP hg hy (cvgPut_inv _ _ hb) (by omega), cvgAt_cvgPut hb (by omega) hy, hbyte]
    by_cases hyi : y = i
    · rw [if_neg (by omega), if_pos hyi, if_pos (by omega), hyi]
    · simp only [if_neg hyi, show i + 1 ≤ y ∧ y < i + 1 + n ↔ i ≤ y ∧ y < i + (n + 1) by omega]

theorem cvgAt_forP_put (hb : cvgInv b = true) {i n : Nat} (hn : i + n ≤ 1024) (hy : y < 1024) :
    cvgAt (forP (fun x b => cvgPut b x 0) i n b) y = if i ≤ y ∧ y < i + n then 0 else cvgAt b y :=
  cvgAt_forP (g := fun _ => 0) (fun _ _ => by decide) hy hb hn

theorem cvgAt_forP_or (hb : cvgInv b = true) {i n w : Nat} (hn : i + n ≤ 1024) (hw : w < 256) (hy : y < 1024) :
    cvgAt (forP (fun x b => cvgOr b x w) i n b) y = if i ≤ y ∧ y < i + n then cvgAt b y ||| w else cvgAt b y :=
  cvgAt_forP (g := fun v => v ||| w) (fun _ hv => Nat.or_lt_two_pow (n := 8) hv hw) hy hb hn

theorem cvgAt_cvgOr (hb : cvgInv b = true) {w : Nat} (hx : x < 1024) (hw : w < 256) (hy : y < 1024) :
    cvgAt (cvgOr b x w) y = if y = x then cvgAt b y ||| w else cvgAt b y := by
  have hbyte : cvgAt b x ||| w < 256 := Nat.or_lt_two_pow (n := 8) (cvgAt_lt b x) hw
  rw [cvgOr, cvgAt_cvgPut hb hx hy, Nat.mod_eq_of_lt hbyte]
  split
  next hyx => rw [hyx]
  next => rfl

/-- An edge on a whole pixel has all of the pixel's columns on its right and none on its left (R1031). -/
theorem rightOf_pixel (x : Nat) {f : Nat} (hf : f < 16) : rightOf (8 * x) f = f := by
  have hedge : covEdge (8 * x) = 0 := by
    rw [covEdge]
    omega
  rw [rightOf, hedge, Nat.and_comm]
  exact (Nat.and_two_pow_sub_one_eq_mod f 4).trans (Nat.mod_eq_of_lt hf)

theorem leftOf_pixel (x f : Nat) : leftOf (8 * x) f = 0 := by
  have hedge : covEdge (8 * x) = 0 := by
    rw [covEdge]
    omega
  rw [leftOf, hedge]
  exact Nat.zero_and f

/-- A sub-row between two whole pixels adds its samples to the pixels from the left edge up to the right one (R1031). -/
theorem cvgAt_covSubRow_pixels (hb : cvgInv b = true) {l h f m : Nat} (hlh : l < h) (hh : h < 1024) (hf : f < 16)
    (hfm : f <<< m < 256) (hy : y < 1024) :
    cvgAt (covSubRow (8 * l) (8 * h) f m b) y = if l ≤ y ∧ y < h then cvgAt b y ||| f <<< m else cvgAt b y := by
  have hdiv (k : Nat) : 8 * k / 8 = k := Nat.mul_div_cancel_left k (by decide)
  simp only [covSubRow, hdiv, rightOf_pixel _ hf, leftOf_pixel, Nat.zero_shiftLeft, if_neg hlh.ne']
  rw [cvgAt_forP_or (cvgOr_inv _ _ (cvgOr_inv _ _ hb)) (by omega) hfm hy,
    cvgAt_cvgOr (cvgOr_inv _ _ hb) hh (by decide) hy, Nat.or_zero, ite_self, cvgAt_cvgOr hb (by omega) hfm hy]
  by_cases hyl : y = l
  · rw [if_neg (by omega), if_pos hyl, if_pos (by omega)]
  · simp only [if_neg hyl, show l + 1 ≤ y ∧ y < l + 1 + (h - (l + 1)) ↔ l ≤ y ∧ y < h by omega]

/-- The samples of a sub-row, at their place in a coverage byte (R1030). -/
def rowSamples (r : Nat) : Nat := covMask r <<< covShift r

theorem covMask_lt (r : Nat) : covMask r < 16 := by
  rw [covMask, Nat.shiftRight_eq_div_pow]
  exact (Nat.div_le_self _ _).trans_lt (by decide)

theorem rowSamples_lt (r : Nat) : rowSamples r < 256 := by
  have hshift : covShift r ≤ 4 := by
    rw [covShift]
    split <;> decide
  calc rowSamples r = covMask r * 2 ^ covShift r := Nat.shiftLeft_eq _ _
    _ ≤ covMask r * 2 ^ 4 := Nat.mul_le_mul_left _ (Nat.pow_le_pow_right (by decide) hshift)
    _ < 256 := by
      have := covMask_lt r
      omega

/-- Sub-rows between two whole pixels add their samples up, in the pixels from the left edge up to the right one. -/
theorem cvgAt_subRows_pixels {l h : Nat} (hlh : l < h) (hh : h < 1024) (hy : y < 1024) :
    ∀ {n i : Nat} {b : List Host.Cell}, cvgInv b = true →
      cvgAt (forP (fun r b => covSubRow (8 * l) (8 * h) (covMask r) (covShift r) b) i n b) y =
        if l ≤ y ∧ y < h then (List.range' i n).foldl (fun v r => v ||| rowSamples r) (cvgAt b y) else cvgAt b y
  | 0, _, _, _ => (ite_self _).symm
  | n + 1, i, b, hb => by
    rw [forP, cvgAt_subRows_pixels hlh hh hy (covSubRow_inv _ _ _ _ hb),
      cvgAt_covSubRow_pixels hb hlh hh (covMask_lt i) (rowSamples_lt i) hy]
    split <;> rfl

/-- The four sub-rows' samples are all of a byte's. -/
theorem rowSamples_all : (List.range' 0 4).foldl (fun v r => v ||| rowSamples r) 0 = 0xff := by decide

/-- The buffer of a span between two whole pixels, none of whose sub-rows is invalid (R1031). -/
theorem cvgAt_buildCvg_pixels {flip : Bool} {sp : Span} {l h : Nat} (hb : cvgInv b = true) (hlh : l < h) (hh : h < 1024)
    (hvalid : ∀ r, sp.invalyscan.get r = false) (hends : leftRight flip sp.rx.toNat sp.lx.toNat = (l, h))
    (hedges : ∀ r, leftRight flip (sp.majorx.get r).toNat (sp.minorx.get r).toNat = (8 * l, 8 * h)) (hy : y < 1024) :
    cvgAt (buildCvg flip sp b) y = if l ≤ y ∧ y < h then 0xff else if y = h then 0 else cvgAt b y := by
  have hclear : cvgInv (forP (fun x b => cvgPut b x 0) l (h + 1 - l) b) = true :=
    forP_inv (Q := fun b => cvgInv b = true) (fun _ _ _ _ ht => cvgPut_inv _ _ ht) hb
  simp only [buildCvg, hvalid, hends, hedges, if_neg hlh.not_gt, if_false, Bool.false_eq_true]
  rw [cvgAt_subRows_pixels hlh hh hy hclear, cvgAt_forP_put hb (by omega) hy]
  by_cases hin : l ≤ y ∧ y < h
  · rw [if_pos hin, if_pos hin, if_pos (by omega), rowSamples_all]
  · simp only [if_neg hin, show l ≤ y ∧ y < l + (h + 1 - l) ↔ y = h by omega]

end

theorem leftRight_map {α β : Type} (g : α → β) (flip : Bool) (l h : α) :
    leftRight flip (g (if flip then l else h)) (g (if flip then h else l)) = (g l, g h) := by
  cases flip <;> rfl

@[simp] theorem Quad.get_const {α : Type} (v : α) (r : Nat) : (Quad.const v).get r = v := by
  unfold Quad.get
  split <;> rfl

/-- Settles O53: in either direction the span's left edge is on pixel `l` and its right edge on pixel `h`. -/
theorem wholePixelSpansAreFullyCovered : Obligations.WholePixelSpansAreFullyCovered := by
  unfold Obligations.WholePixelSpansAreFullyCovered
  intro flip l h b hb hlh hh sp x hx
  have hpixel {k : Nat} (hk : k < 1024) : (BitVec.ofNat 12 k).toNat = k := by
    rw [BitVec.toNat_ofNat]
    omega
  have heighths {k : Nat} (hk : k < 1024) : (BitVec.ofNat 13 (8 * k)).toNat = 8 * k := by
    rw [BitVec.toNat_ofNat]
    omega
  refine cvgAt_buildCvg_pixels hb hlh hh (fun r => Quad.get_const false r) ?_ (fun r => ?_) hx
  · refine (leftRight_map (fun k => (BitVec.ofNat 12 k).toNat) flip l h).trans ?_
    simp only [hpixel hh, hpixel (hlh.trans hh)]
  · rw [Quad.get_const, Quad.get_const]
    refine (leftRight_map (fun k => (BitVec.ofNat 13 (8 * k)).toNat) flip l h).trans ?_
    simp only [heighths hh, heighths (hlh.trans hh)]

/-! ## The lookup of a coverage byte (R1032) -/

/-- `Expand(b)` (R1032): the 4x4 mask, row 0 in the high bits. -/
def expandCvg (b : Nat) : Nat :=
  (b &&& 1) ||| ((b &&& 2) <<< 4) ||| (b &&& 4) ||| ((b &&& 8) <<< 4) ||| ((b &&& 0x10) <<< 4) |||
    ((b &&& 0x20) <<< 8) ||| ((b &&& 0x40) <<< 4) ||| ((b &&& 0x80) <<< 8)

/-- The mask's rows are the model's (R1030): both are made of the byte's eight bits. -/
theorem expandCvg_eq_rows (b : Nat) :
    expandCvg b = covRow b 0 * 4096 + covRow b 1 * 256 + covRow b 2 * 16 + covRow b 3 := by
  have hbit (k : Nat) {w : Nat} (hw : w = 2 ^ k) : b &&& w = bitNat (b.testBit k) * w := by
    rw [hw, Nat.and_two_pow]
    cases b.testBit k <;> rfl
  rw [expandCvg, hbit 0 (w := 1) rfl, hbit 1 (w := 2) rfl, hbit 2 (w := 4) rfl, hbit 3 (w := 8) rfl, hbit 4 (w := 0x10) rfl,
    hbit 5 (w := 0x20) rfl, hbit 6 (w := 0x40) rfl, hbit 7 (w := 0x80) rfl]
  simp only [covRow]
  generalize b.testBit 0 = b0, b.testBit 1 = b1, b.testBit 2 = b2, b.testBit 3 = b3, b.testBit 4 = b4, b.testBit 5 = b5,
    b.testBit 6 = b6, b.testBit 7 = b7
  revert b0 b1 b2 b3 b4 b5 b6 b7
  decide

theorem covRow_lt (b r : Nat) : covRow b r < 16 := by
  have hbit (x : Bool) : bitNat x ≤ 1 := by cases x <;> decide
  have hbits (k : Nat) := hbit (b.testBit k)
  unfold covRow
  split
  · have := hbits 7; have := hbits 5; omega
  · have := hbits 6; have := hbits 4; omega
  · have := hbits 3; have := hbits 1; omega
  · have := hbits 2; have := hbits 0; omega

theorem and_0xf (x : Nat) : x &&& 0xf = x % 16 := Nat.and_two_pow_sub_one_eq_mod x 4

/-- A row of the mask by its shift; past row 3 both sides stay at row 3. -/
theorem expandCvg_row (b r : Nat) : (expandCvg b >>> (12 - 4 * r)) &&& 0xf = covRow b r := by
  have h0 := covRow_lt b 0
  have h1 := covRow_lt b 1
  have h2 := covRow_lt b 2
  have h3 := covRow_lt b 3
  rw [expandCvg_eq_rows, Nat.shiftRight_eq_div_pow, and_0xf]
  match r with
  | 0 => omega
  | 1 => omega
  | 2 => omega
  | r + 3 =>
    rw [show 12 - 4 * (r + 3) = 0 by omega, show covRow b (r + 3) = covRow b 3 from rfl]
    omega

/-- The set of sub-rows with a sample, as the number that indexes the Y table (R1032). -/
def rowSet (row : Nat → Nat) : Nat := (List.range 4).foldl (fun m r => if row r ≠ 0 then m + 2 ^ r else m) 0

/-- The Y table gives the lowest sub-row with a sample (R1032). -/
theorem yTable_rowSet (b : Nat) :
    [0, 0, 1, 0, 2, 0, 1, 0, 3, 0, 1, 0, 2, 0, 1, 0].getD (rowSet (covRow b)) 0 = covOffY b := by
  simp only [rowSet, covOffY, List.range_succ, List.range_zero, List.nil_append, List.foldl_append, List.foldl_cons,
    List.foldl_nil]
  split_ifs <;> rfl

/-- The X table gives the lowest column of a row (R1032). -/
theorem xTable_eq_lowestColumn :
    ∀ row < 16, [0, 3, 2, 2, 1, 1, 1, 1, 0, 0, 0, 0, 0, 0, 0, 0].getD row 0 = lowestColumn row := by decide

theorem popcount_eq_sum (v : Nat) : ∀ n, popcount n v = ((List.range n).map (fun k => v / 2 ^ k % 2)).sum
  | 0 => rfl
  | n + 1 => by
    have ih := popcount_eq_sum v n
    rw [popcount] at ih ⊢
    rw [List.range_succ, List.filter_append, List.length_append, ih, List.map_append, List.sum_append]
    by_cases hbit : v / 2 ^ n % 2 = 1
    · simp [Nat.testBit_eq_decide_div_mod_eq, hbit]
    · simp [Nat.testBit_eq_decide_div_mod_eq, hbit]
      omega

/-- Settles O52: the mask of the rule is the model's row by row, and the tables give the lowest row and its lowest column. -/
theorem coverageLookup : Obligations.CoverageLookup := by
  unfold Obligations.CoverageLookup
  intro P b hb hstd M row rows
  have hrow : row = covRow b := funext (expandCvg_row b)
  have hy : [0, 0, 1, 0, 2, 0, 1, 0, 3, 0, 1, 0, 2, 0, 1, 0].getD rows 0 = covOffY b := by
    rw [← yTable_rowSet, ← hrow]
    rfl
  have hbit : b.testBit 7 = decide (128 ≤ b) := by
    rw [Nat.testBit_eq_decide_div_mod_eq, decide_eq_decide]
    omega
  rw [cvgLookup, hstd, hy, hrow, xTable_eq_lowestColumn _ (covRow_lt b _), popcount_eq_sum, hbit]

/-! ## Dither (R1043) -/

/-- A channel stays where its low three bits are at most the threshold, and else moves to the next multiple of 8. -/
theorem ditherChannel_eq (v th : Nat) :
    ditherChannel v th = if v % 8 ≤ th then v else if 248 ≤ v then 255 else (v / 8 + 1) * 8 := by
  rw [ditherChannel]
  split_ifs <;> omega

/-- Settles O54: the noise selector's thresholds are three octal digits of the draw. -/
theorem rgbDitherRoundsUp : Obligations.RgbDitherRoundsUp := by
  unfold Obligations.RgbDitherRoundsUp
  intro sel c d _ _ _
  have hsix : d >>> 6 = d / 64 := Nat.shiftRight_eq_div_pow d 6
  have hthree : d >>> 3 = d / 8 := Nat.shiftRight_eq_div_pow d 3
  cases sel with
  | none => rfl
  | noise => simp only [rgbDither, ditherChannel_eq, hsix, hthree]
  | magic => simp only [rgbDither, ditherChannel_eq]
  | bayer => simp only [rgbDither, ditherChannel_eq]

/-! ## Noise (R1044) -/

section
variable {P : Params}

theorem rand_of_draw (h : P.noise = .draw) (p : Pixel) : rand P p = ((p.draw.1.setWidth 15).toNat, p.draw.2) := by
  rw [rand, h]

/-- The generator's step in numbers, modulo 2^32. -/
theorem noiseStep_eq (x : BitVec 32) : 214013 * x + 2531011 = BitVec.ofNat 32 (214013 * x.toNat + 2531011) := by
  apply BitVec.eq_of_toNat_eq
  rw [BitVec.toNat_add, BitVec.toNat_mul, BitVec.toNat_ofNat, Nat.mod_add_mod]
  rfl

/-- The value is bits 30:16 of the moved seed. -/
theorem rand_of_lcg (h : P.noise = .lcg) (p : Pixel) :
    rand P p = ((214013 * p.noiseSeed.toNat + 2531011) / 65536 % 32768,
      { p with noiseSeed := BitVec.ofNat 32 (214013 * p.noiseSeed.toNat + 2531011) }) := by
  have hvalue (n : Nat) : (BitVec.ofNat 32 n).toNat >>> 16 &&& 0x7fff = n / 65536 % 32768 := by
    rw [and_0x7fff, Nat.shiftRight_eq_div_pow, BitVec.toNat_ofNat]
    omega
  rw [rand, h]
  simp only [noiseStep_eq, hvalue]

end

/-- Settles O55: a draw is cut to 15 bits, and the generator's value is 15 bits of its seed. -/
theorem noiseSources : Obligations.NoiseSources := by
  unfold Obligations.NoiseSources
  intro P p
  refine ⟨?_, fun hlcg => ?_, fun hdraw => ?_⟩
  · cases hnoise : P.noise with
    | draw =>
      rw [rand_of_draw hnoise]
      exact Nat.le_of_lt_succ (BitVec.isLt _)
    | lcg =>
      rw [rand_of_lcg hnoise]
      exact Nat.le_of_lt_succ (Nat.mod_lt _ (by decide))
  · rw [rand_of_lcg hlcg]
    exact ⟨rfl, rfl⟩
  · rw [rand_of_draw hdraw]
    rfl

end Sys2Proof.Machine
end

section
/-! The crash latch, the warned set and the sink over every command (60_exceptions.md): a rendering command leaves what its
scanlines leave, any other command at most clears the latch (the two image commands) or appends one diagnostic. That the latch
stops rendering alone is read off what a command does from a state with the latch put either way. -/

namespace Sys2Proof.Machine

open Sys2Proof.Config

/-! ## One crash condition (R1105) -/

theorem Warned.has_add (w : Warned) (n m : CrashName) : (w.add n).has m = (w.has m || m == n) := by
  cases n <;> cases m <;> simp [Warned.has, Warned.add]

/-- Settles O17: the two branches of `crashLatch`, and the names read off per condition. -/
theorem crashLatchWarnsOnce : Obligations.CrashLatchWarnsOnce := by
  unfold Obligations.CrashLatchWarnsOnce
  refine fun n p => ⟨fun hnew => ?first, fun hold => ?again, Warned.has_add p.warned n, rfl, ?names⟩
  case first =>
    rw [crashLatch, if_neg (by simp [hnew])]
  case again =>
    rw [crashLatch, if_pos hold]
  case names => cases n <;> rfl

theorem crashLatch_draws (n : CrashName) (p : Pixel) : (crashLatch n p).draws = p.draws := by
  obtain ⟨hlatch, -⟩ := crashLatch_spec n p
  rw [hlatch]

/-! ## The pixel part after a command -/

/-- A command that answers leaves the pixel part as its renderer does, or as a control command does; a load leaves it. -/
theorem exec_pixel {i : Instr} {s t : State} (h : exec i s = .next t) :
    (isRendering i = true ∧ Rendered s.toCtx s.pixel t.pixel) ∨
      (isRendering i = false ∧ ControlPixel s.params s.pixel t.pixel) := by
  rcases exec_cases h with ⟨P, -, hrender, -, hrun⟩ | ⟨hother, -, n, b, m, -, rfl, -⟩ | ⟨hother, -, r, p, rfl, hp⟩
  · refine .inl ⟨hrender, ?_⟩
    rcases runPrimitive_next hrun with ⟨-, rfl⟩ | ⟨-, p, hspans, rfl⟩
    · exact ⟨_, Keeps.refl _ _, .inl rfl⟩
    · have hgradients : Quiet s.pixel (edgeGradients P s.pixel) := ⟨rfl, rfl, rfl, rfl, .same rfl le_rfl⟩
      obtain ⟨q, hkeeps, hq⟩ := renderSpans_rendered hspans
      exact ⟨q, (hgradients.keeps _).trans hkeeps, hq⟩
  · exact .inr ⟨hother, .same⟩
  · exact .inr ⟨hother, hp⟩

section
variable {c : Ctx} {P : Params} {p q : Pixel} {n : CrashName}

/-- Rendering never clears the latch (R1107). -/
theorem Rendered.crashed_of_crashed (h : Rendered c p q) (hp : p.crashed = true) : q.crashed = true := by
  obtain ⟨r, hkeeps, rfl | ⟨n, -, rfl⟩⟩ := h
  · rw [hkeeps.crashed, hp]
  · exact crashLatch_crashed n r

theorem Rendered.has_of_has (h : Rendered c p q) (hp : p.warned.has n = true) : q.warned.has n = true := by
  obtain ⟨r, hkeeps, rfl | ⟨m, -, rfl⟩⟩ := h
  · rw [hkeeps.warned, hp]
  · rw [crashLatch_warned, Warned.has_add, hkeeps.warned, hp, Bool.true_or]

/-- In the other two cycle types rendering leaves the latch and the warned set (R1102). -/
theorem Rendered.latch_eq (h : Rendered c p q) (hcycle : ¬(c.regs.om.cycleType = .fill ∨ c.regs.om.cycleType = .copy)) :
    q.crashed = p.crashed ∧ q.warned = p.warned := by
  obtain ⟨r, hkeeps, rfl | ⟨n, hcrash, -⟩⟩ := h
  · exact ⟨hkeeps.crashed, hkeeps.warned⟩
  · exact absurd hcrash hcycle

/-- What the stages append reports no crash (R1109). -/
theorem Grows.diag_noCrash (h : Grows p q) : ∃ l : List Diag, q.diag = p.diag ++ l ∧ l.filter Diag.isCrash = [] := by
  obtain ⟨l, hdiag, hunknown⟩ := h.diag
  refine ⟨l, hdiag, List.filter_eq_nil_iff.2 fun d hd => ?_⟩
  rw [hunknown d hd]
  exact Bool.false_ne_true

/-- Rendering appends to the sink at most one crash report, the latch's own, which ends it (R1103). -/
theorem Rendered.sink (h : Rendered c p q) :
    p.draws ≤ q.draws ∧ ∃ l : List Diag, q.diag = p.diag ++ l ∧ (l.filter Diag.isCrash).length ≤ 1 := by
  obtain ⟨r, hkeeps, hr⟩ := h
  obtain ⟨l, hdiag, hnone⟩ := hkeeps.grows.diag_noCrash
  rcases hr with rfl | ⟨n, -, rfl⟩
  · exact ⟨hkeeps.grows.draws, l, hdiag, by simp [hnone]⟩
  · refine ⟨(crashLatch_draws n r).symm ▸ hkeeps.grows.draws, l ++ (if r.warned.has n then [] else [.crash n]), ?_, ?_⟩
    · rw [crashLatch_diag, hdiag, List.append_assoc]
    · rw [List.filter_append, hnone, List.nil_append]
      exact (List.length_filter_le _ _).trans (by split <;> simp)

theorem ControlPixel.warned (h : ControlPixel P p q) : q.warned = p.warned := by
  cases h <;> rfl

/-- A control command never sets the latch (R1102). -/
theorem ControlPixel.crashed_of_crashed (h : ControlPixel P p q) (hq : q.crashed = true) : p.crashed = true := by
  cases h with
  | same => exact hq
  | emit => exact hq
  | clear =>
    rw [clearCrash_crashed] at hq
    split at hq
    · cases hq
    · exact hq

/-- A control command appends at most one diagnostic. -/
theorem ControlPixel.sink (h : ControlPixel P p q) :
    p.draws ≤ q.draws ∧ ∃ l : List Diag, q.diag = p.diag ++ l ∧ (l.filter Diag.isCrash).length ≤ 1 := by
  cases h with
  | same => exact ⟨le_rfl, [], (List.append_nil _).symm, Nat.zero_le 1⟩
  | emit d => exact ⟨le_rfl, [d], rfl, List.length_filter_le _ _⟩
  | clear => exact ⟨le_rfl, [], (List.append_nil _).symm, Nat.zero_le 1⟩

end

/-! ## The latch put either way (R1106) -/

/-- The state with the latch put to `b`. -/
def State.setCrashed (s : State) (b : Bool) : State := s.setPixel { s.pixel with crashed := b }

@[simp] theorem State.setCrashed_self (s : State) : s.setCrashed s.pixel.crashed = s := rfl

/-- The latch that a command which does not render leaves (R1107): the image commands' of R422 and R424, else the latch before. -/
def latchAfter (P : Params) (c : Bool) : Instr → Bool
  | .setColorImage _ => if P.crashClearedBySetImage then false else c
  | .setMaskImage _ => if P.crashClearedBySetImage then false else c
  | _ => c

theorem latchAfter_of_isLoad {i : Instr} (hload : isLoad i = true) (P : Params) (c : Bool) : latchAfter P c i = c := by
  cases i
  case loadTile | loadBlock | loadTlut => rfl
  all_goals cases hload

/-- The commands that clear a latch that is set, and when. -/
theorem latchAfter_clears {P : Params} {i : Instr} (h : latchAfter P true i = false) :
    P.crashClearedBySetImage = true ∧ ((∃ d, i = .setColorImage d) ∨ ∃ a, i = .setMaskImage a) := by
  cases i
  case setColorImage | setMaskImage => simpa [latchAfter] using h
  all_goals cases h

/-- What a load copies, and whether it may, are read from parts of the state beside the latch (R500 to R502, R507). -/
theorem exec_load {i : Instr} (hload : isLoad i = true) (s : State) :
    ∃ n b bad copy, exec i s = runLoad s n b bad copy ∧
      ∀ c, exec i (s.setCrashed c) = runLoad (s.setCrashed c) n b bad copy := by
  cases i
  case loadTile | loadBlock | loadTlut =>
    simp only [exec, execLoadTile, execLoadBlock, execLoadTlut]
    exact ⟨_, _, _, _, rfl, fun c => rfl⟩
  all_goals cases hload

/-- A load neither heeds the latch nor writes it (R1106). -/
theorem runLoad_setCrashed (s : State) (n : BitVec 3) (b : TileBounds) (bad : Bool)
    (copy : Tile → List Host.Cell → Except Fault (List Host.Cell)) :
    (∃ t, runLoad s n b bad copy = .next t ∧ ∀ c, runLoad (s.setCrashed c) n b bad copy = .next (t.setCrashed c)) ∨
      ∃ f, ∀ c, runLoad (s.setCrashed c) n b bad copy = .fault f := by
  cases bad with
  | true => exact .inr ⟨_, fun _ => rfl⟩
  | false =>
    cases hcopy : copy (s.regs.getTile n) s.tmem with
    | ok m => exact .inl ⟨_, runLoad_of_copy hcopy, fun c => runLoad_of_copy hcopy⟩
    | error e =>
      refine .inr ⟨e, fun c => ?_⟩
      have hcopy' : copy ((s.setCrashed c).regs.getTile n) (s.setCrashed c).tmem = .error e := hcopy
      rw [runLoad, hcopy', if_neg Bool.false_ne_true]

/-- A command that does not render has one outcome whatever the latch, but for the latch of its next state (R1106). -/
theorem exec_setCrashed {i : Instr} (hother : isRendering i = false) (s : State) :
    (∃ t, exec i s = .next t ∧ ∀ c, exec i (s.setCrashed c) = .next (t.setCrashed (latchAfter s.params c i))) ∨
      ∃ f, ∀ c, exec i (s.setCrashed c) = .fault f := by
  by_cases hload : isLoad i = true
  · obtain ⟨n, b, bad, copy, hexec, hexecLatch⟩ := exec_load hload s
    simp only [hexec, hexecLatch, latchAfter_of_isLoad hload]
    exact runLoad_setCrashed s n b bad copy
  · cases i
    case loadTile | loadBlock | loadTlut => exact absurd rfl hload
    case triFill | triFillZ | triTex | triTexZ | triShade | triShadeZ | triShadeTex | triShadeTexZ | texRect | texRectFlip |
        fillRect => cases hother
    all_goals exact .inl ⟨_, rfl, fun c => rfl⟩

theorem exec_crashed {i : Instr} {s t : State} (hother : isRendering i = false) (h : exec i s = .next t) :
    t.pixel.crashed = latchAfter s.params s.pixel.crashed i := by
  rcases exec_setCrashed hother s with ⟨u, -, hu⟩ | ⟨f, hf⟩
  · have hnext := hu s.pixel.crashed
    rw [State.setCrashed_self, h] at hnext
    cases hnext
    rfl
  · have hfault := hf s.pixel.crashed
    rw [State.setCrashed_self, h] at hfault
    cases hfault

/-- Settles O18: a rendering command looks at the latch first, and no other command's outcome depends on it. -/
theorem latchStopsRenderingAlone : Obligations.LatchStopsRenderingAlone := by
  unfold Obligations.LatchStopsRenderingAlone
  refine fun i s => ⟨fun hrender hset => ?rendering, fun hother => ?other⟩
  case rendering =>
    rw [← edgeParamsOf_isSome s.regs.om.cycleType] at hrender
    obtain ⟨P, hparams⟩ := Option.isSome_iff_exists.1 hrender
    rw [exec_primitive hparams, runPrimitive_crashed P hset]
  case other =>
    rcases exec_setCrashed hother s with ⟨t, -, ht⟩ | ⟨f, hf⟩
    · simp only [State.setCrashed, State.setPixel] at ht
      rw [ht false, ht true]
      exact ⟨_, rfl⟩
    · simp only [State.setCrashed, State.setPixel] at hf
      rw [hf false, hf true]

/-! ## Who may change the latch, the warned set and the sink -/

/-- Settles O21: rendering only sets the latch and adds to the warned set, and of the other commands only the image commands
touch the latch and none the warned set. -/
theorem onlyImageCommandsClearTheLatch : Obligations.OnlyImageCommandsClearTheLatch := by
  unfold Obligations.OnlyImageCommandsClearTheLatch
  refine ⟨fun i s t h hset hclear => ?whoClears, fun s d a t hclears h => ?imagesClear, fun i s t n h hhas => ?warnedStays,
    fun s ws n => ⟨rfl, by cases n <;> rfl⟩⟩
  case whoClears =>
    rcases exec_pixel h with ⟨-, hrendered⟩ | ⟨hother, -⟩
    · simp [hrendered.crashed_of_crashed hset] at hclear
    · rw [exec_crashed hother h, hset] at hclear
      exact latchAfter_clears hclear
  case imagesClear =>
    rcases h with h | h
    all_goals
      cases h
      simp [hclears]
  case warnedStays =>
    rcases exec_pixel h with ⟨-, hrendered⟩ | ⟨-, hcontrol⟩
    · exact hrendered.has_of_has hhas
    · rwa [hcontrol.warned]

/-- Settles O22: a control command or a load sets neither, nor does rendering outside fill and copy mode. -/
theorem onlyRenderingCrashes : Obligations.OnlyRenderingCrashes := by
  unfold Obligations.OnlyRenderingCrashes
  intro i s t h hchange
  rcases exec_pixel h with ⟨hrender, hrendered⟩ | ⟨-, hcontrol⟩
  · refine ⟨hrender, ?_⟩
    by_contra hcycle
    obtain ⟨hcrashed, hwarned⟩ := hrendered.latch_eq hcycle
    simp [hcrashed, hwarned] at hchange
  · rcases hchange with ⟨hclear, hset⟩ | hwarned
    · simp [hcontrol.crashed_of_crashed hset] at hclear
    · exact absurd hcontrol.warned hwarned

/-- Settles O23: the sink after rendering and after any other command. -/
theorem diagnosticsOnlyGrow : Obligations.DiagnosticsOnlyGrow := by
  unfold Obligations.DiagnosticsOnlyGrow
  intro i s t h
  rcases exec_pixel h with ⟨-, hrendered⟩ | ⟨-, hcontrol⟩
  · exact hrendered.sink
  · exact hcontrol.sink

end Sys2Proof.Machine
end

section
/-! Reset, host reset and a command sequence that ends within a command (70_reset_and_hazards.md). What precedes the missing
words of a command does not decode, and the words that complete it decode to that command. -/

namespace Sys2Proof

/-! ## A command cut short (R1207) -/

/-- The words of a command without its last ones are no command: their first word, if there is one, gives the full length. -/
theorem decode_of_properPrefix {i : Instr} {pre ws : List Word64} (hne : ws ≠ []) (h : pre ++ ws = encode i) :
    ∃ e, decode pre = .error e := by
  cases pre with
  | nil => exact ⟨_, rfl⟩
  | cons w rest =>
    have hop : opcode w = i.op := by
      have hfirst := opcode_encode i []
      rwa [List.append_nil, ← h] at hfirst
    have hlen : (w :: rest).length + ws.length = cmdLen i.op := by
      rw [← List.length_append, h, length_encode]
    have hpos : 0 < ws.length := List.length_pos_iff.2 hne
    have htooFew : (w :: rest).length < cmdLen (opcode w) := by
      rw [hop]
      omega
    exact decode_of_tooFew htooFew

end Sys2Proof

namespace Sys2Proof.Machine

open Sys2Proof.Config

/-- Settles O6: the remaining words are a command cut short, and with the supplied ones they are the command's encoding, which
decodes to it. -/
theorem suppliedWordsResumeTheEngine : Obligations.SuppliedWordsResumeTheEngine := by
  unfold Obligations.SuppliedWordsResumeTheEngine
  intro s i ws hwf hcursor hne hwords
  constructor
  case left =>
    obtain ⟨e, hdecode⟩ := decode_of_properPrefix hne hwords
    rw [step, State.fetch, hdecode]
  case right =>
    have hdrop : (s.supply ws).cmds.drop s.cmdIndex = encode i := by
      rw [State.supply, State.setCmds_cmds, List.drop_append_of_le_length hcursor, hwords]
    have hdecode : (s.supply ws).fetch = .ok (i, cmdLen i.op) := by
      have hround := decodeEncodeAgree i [] hwf
      rwa [List.append_nil, ← hdrop] at hround
    rw [step, hdecode]
    rfl

/-! ## Reset (R1203, R1206) -/

/-- Settles O42: at reset every sparse list is empty, the widths are 1 and the addresses 0, and no word is supplied yet. -/
theorem resetHasTheInvariant : Obligations.ResetHasTheInvariant := by
  unfold Obligations.ResetHasTheInvariant
  have hregs : regsInv Params.default Regs.reset = true :=
    regsInv_iff.2 ⟨by decide, by decide, by decide, by decide, by decide⟩
  exact ⟨rfl, rfl, rfl, rfl, hregs, Nat.zero_le 0⟩

/-- Every tile is 0 after reset (R117). -/
@[simp] theorem Regs.getTile_reset (n : BitVec 3) : Regs.reset.getTile n = Tile.reset :=
  Vector.getElem_replicate n.isLt

/-- No span record is listed after reset, inside the span buffer or outside it (R121, R624). -/
@[simp] theorem spanAt_reset (P : Params) (i : Int) : spanAt P Walk.reset i = Span.zero := ite_self _

/-- Settles O43: the registers and the walker's values by their definition, the two mode registers by the decoder run on a word
with all fields 0, each buffer by what it holds where nothing is listed. -/
theorem resetValues : Obligations.ResetValues := by
  unfold Obligations.ResetValues
  refine ⟨rfl, ?otherModes, ?combine, rfl, rfl, rfl, rfl, rfl, rfl, rfl, rfl, rfl, rfl, rfl, rfl, rfl, rfl, rfl, rfl, rfl, rfl,
    rfl, fun n => ?tile, fun _ => rfl, spanAt_reset _, rfl, rfl, rfl, rfl, rfl, rfl, rfl, fun _ => rfl, rfl, rfl, rfl, rfl, rfl,
    rfl, rfl, rfl, fun c => ?warned⟩
  case otherModes | combine => decide
  case tile =>
    rw [show State.reset.regs = Regs.reset from rfl, Regs.getTile_reset]
    decide
  case warned => cases c <;> rfl

/-- Settles O44: host reset is reset with the items that are not of R1203 put back. -/
theorem hostResetKeepsHostMemory : Obligations.HostResetKeepsHostMemory := by
  unfold Obligations.HostResetKeepsHostMemory
  exact fun s ws => ⟨rfl, rfl, rfl, rfl, rfl, rfl, rfl⟩

end Sys2Proof.Machine
end
